-- ==== Sys2Proof/Word.lean ====
section
/-! DEFINITION. The word types of the machine (spec/00_scope.md R4, spec/10_state.md R10, R12; spec/20_memory.md R40,
R52). Byte-order, extension and page helpers stand in Decode.lean and Machine/Operands.lean, not here. -/

namespace Sys2Proof

/-- A byte: the width of A, X, Y, SP, P, of a memory cell and of a peripheral register (R4, R10). -/
abbrev Byte := BitVec 8

/-- A word of 16 bits: the program counter and every bus address (R12, R40). Arithmetic wraps mod 65536. -/
abbrev Word := BitVec 16

/-- A colour of the lookup table, 24 bits wide (R52, spec decision D30). -/
abbrev Rgb := BitVec 24

end Sys2Proof
end

