-- ==== Sys2Proof/Config.lean ====
section
/-! DEFINITION. The implementation parameters of spec/00_scope.md R3, as plain data, with the spec's defaults, and
the one function the spec leaves open without writing it. State carries a Config (notes/assumptions/2.md), so a
statement about every state is a statement about every choice of the parameters. -/

namespace Sys2Proof

/-- The master ticks of one CPU cycle: `CLK_RATIO`, 3 by the document ("hardware ratio 3:1", R110, U11). -/
def clkRatio : Nat := 3

/-- The rule that gives the Overflow flag after ADC and SBC: `V_RULE`, which the source leaves open (R190, D2). -/
inductive VRule where
  /-- "operands share a sign and differ from the result": the spec's default. -/
  | canonical
  /-- The rule the source observed and did not write out: any function of the two operands and the result. -/
  | observed
  deriving DecidableEq, Repr

/-- The overflow rule the source observed. FREE VALUE: the spec does not give the formula (R190, D2), so it has no
body and nothing can be proved of it (notes/assumptions/7.md). -/
opaque Config.observedOverflow : Byte → Byte → Byte → Bool

/-- The parameters of R3. Each field names the spec's parameter. -/
structure Config where
  /-- `MEM_SIZE`, bytes of backing store, 1 to 65536 (R41 to R43, D5). -/
  memSize : Nat
  /-- `PWIN_BASE`, first address of the peripheral window (R41, D6). -/
  pwinBase : Word
  /-- `PWIN_LEN`, bytes in the window, at least 0x3E (R41, D6). -/
  pwinLen : Nat
  /-- `WSYNC_OFFSET`, the wait strobe (R46, D9). -/
  wsyncOffset : Nat
  /-- `CXCLR_OFFSET`, the collision-latch clear (R47, D9). -/
  cxclrOffset : Nat
  /-- `RD_PLACEHOLDER`, what a write-only or unknown offset reads as (R50, D7). The source leaves it undefined but
  stable: no statement rests on its value (notes/assumptions/8.md). -/
  rdPlaceholder : Byte
  /-- `LINE_LEN`, master ticks in a scanline (R111, D11). -/
  lineLen : Nat
  /-- `HBLANK_START`, the position at which a suspension ends (R112, D11). -/
  hblankStart : Nat
  /-- `START_PC`, a fixed start address in place of the reset vector (R301, U14). -/
  startPc : Option Word
  /-- `V_RULE` (R190, D2). -/
  vRule : VRule
  /-- `COLOR_TABLE`, from even byte codes to colours (R52). -/
  colorTable : List (Byte × Rgb)
  deriving DecidableEq, Repr

/-- The defaults of R3: the whole 64 KiB is backing store, the window is 0x0000 to 0x003F. -/
def Config.default : Config where
  memSize := 65536
  pwinBase := 0x0000
  pwinLen := 0x40
  wsyncOffset := 0x02
  cxclrOffset := 0x2C
  rdPlaceholder := 0x00
  lineLen := 228
  hblankStart := 0
  startPc := none
  vRule := .canonical
  colorTable := []

end Sys2Proof
end

