-- ==== Sys2Proof/Syntax.lean ====
section
/-! DEFINITION. The instructions: one constructor for each of the 151 rows of spec/opcode_table.json
(spec/30_encoding.md R84), and the names the spec gives mnemonics and addressing modes (R88, spec/41_addressing_modes.md
R130). There are no pseudo-instructions (R89). -/

namespace Sys2Proof

/-- The 56 mnemonics of R84. -/
inductive Mnemonic where
  | lda | ldx | ldy | sta | stx | sty | tax | tay | txa | tya | tsx | txs | pha | php | pla | plp | ora | and
  | eor | bit | adc | sbc | cmp | cpx | cpy | inc | dec | inx | iny | dex | dey | asl | lsr | rol | ror | jmp
  | jsr | rts | bpl | bmi | bvc | bvs | bcc | bcs | bne | beq | clc | sec | cli | sei | cld | sed | clv | nop
  | brk | rti
  deriving DecidableEq, Repr

/-- The 13 addressing-mode tags of R130. -/
inductive ModeTag where
  | imp | acc | imm | zp | zpx | zpy | abs | abx | aby | ind | izx | izy | rel
  deriving DecidableEq, Repr

/-- The eight modes whose effective address is read or written, with their operand bytes (R134 to R139, R141, R142). -/
inductive MemMode where
  /-- R134: the zero-page address. -/
  | zp (addr : Byte)
  /-- R135: zero page indexed by X. -/
  | zpx (addr : Byte)
  /-- R136: zero page indexed by Y. -/
  | zpy (addr : Byte)
  /-- R137: the absolute address. -/
  | abs (addr : Word)
  /-- R138: absolute indexed by X. -/
  | abx (addr : Word)
  /-- R139: absolute indexed by Y. -/
  | aby (addr : Word)
  /-- R141: "(zp,X)", indexed indirect. -/
  | izx (addr : Byte)
  /-- R142: "(zp),Y", indirect indexed. -/
  | izy (addr : Byte)
  deriving DecidableEq, Repr

/-- Where a read instruction takes its operand: an immediate byte or memory (R133, R147). -/
inductive Src where
  | imm (v : Byte)
  | mem (m : MemMode)
  deriving DecidableEq, Repr

/-- What a read-modify-write instruction changes: the accumulator or memory (R132, R149). -/
inductive Dst where
  | acc
  | mem (m : MemMode)
  deriving DecidableEq, Repr

/-- An addressing mode with its operand bytes: the 13 modes of R130. -/
inductive AddrMode where
  | imp
  | acc
  | imm (v : Byte)
  | mem (m : MemMode)
  /-- R140: the address of the jump's pointer. -/
  | ind (ptr : Word)
  /-- R143: the signed displacement of a branch. -/
  | rel (disp : Byte)
  deriving DecidableEq, Repr

/-- The instructions, one constructor a row of the opcode table. A constructor is named after its mnemonic and, where
the mnemonic has more than one mode or takes memory, its mode. An absolute operand is held as the assembled word. -/
inductive Instr where
  -- Load
  | ldaImm (v : Byte)
  | ldaZp (zp : Byte)
  | ldaZpx (zp : Byte)
  | ldaAbs (addr : Word)
  | ldaAbx (addr : Word)
  | ldaAby (addr : Word)
  | ldaIzx (zp : Byte)
  | ldaIzy (zp : Byte)
  | ldxImm (v : Byte)
  | ldxZp (zp : Byte)
  | ldxZpy (zp : Byte)
  | ldxAbs (addr : Word)
  | ldxAby (addr : Word)
  | ldyImm (v : Byte)
  | ldyZp (zp : Byte)
  | ldyZpx (zp : Byte)
  | ldyAbs (addr : Word)
  | ldyAbx (addr : Word)
  -- Store
  | staZp (zp : Byte)
  | staZpx (zp : Byte)
  | staAbs (addr : Word)
  | staAbx (addr : Word)
  | staAby (addr : Word)
  | staIzx (zp : Byte)
  | staIzy (zp : Byte)
  | stxZp (zp : Byte)
  | stxZpy (zp : Byte)
  | stxAbs (addr : Word)
  | styZp (zp : Byte)
  | styZpx (zp : Byte)
  | styAbs (addr : Word)
  -- Transfer
  | tax
  | tay
  | txa
  | tya
  | tsx
  | txs
  -- Stack
  | pha
  | php
  | pla
  | plp
  -- Logic
  | oraImm (v : Byte)
  | oraZp (zp : Byte)
  | oraZpx (zp : Byte)
  | oraAbs (addr : Word)
  | oraAbx (addr : Word)
  | oraAby (addr : Word)
  | oraIzx (zp : Byte)
  | oraIzy (zp : Byte)
  | andImm (v : Byte)
  | andZp (zp : Byte)
  | andZpx (zp : Byte)
  | andAbs (addr : Word)
  | andAbx (addr : Word)
  | andAby (addr : Word)
  | andIzx (zp : Byte)
  | andIzy (zp : Byte)
  | eorImm (v : Byte)
  | eorZp (zp : Byte)
  | eorZpx (zp : Byte)
  | eorAbs (addr : Word)
  | eorAbx (addr : Word)
  | eorAby (addr : Word)
  | eorIzx (zp : Byte)
  | eorIzy (zp : Byte)
  | bitZp (zp : Byte)
  | bitAbs (addr : Word)
  -- Arith
  | adcImm (v : Byte)
  | adcZp (zp : Byte)
  | adcZpx (zp : Byte)
  | adcAbs (addr : Word)
  | adcAbx (addr : Word)
  | adcAby (addr : Word)
  | adcIzx (zp : Byte)
  | adcIzy (zp : Byte)
  | sbcImm (v : Byte)
  | sbcZp (zp : Byte)
  | sbcZpx (zp : Byte)
  | sbcAbs (addr : Word)
  | sbcAbx (addr : Word)
  | sbcAby (addr : Word)
  | sbcIzx (zp : Byte)
  | sbcIzy (zp : Byte)
  -- Compare
  | cmpImm (v : Byte)
  | cmpZp (zp : Byte)
  | cmpZpx (zp : Byte)
  | cmpAbs (addr : Word)
  | cmpAbx (addr : Word)
  | cmpAby (addr : Word)
  | cmpIzx (zp : Byte)
  | cmpIzy (zp : Byte)
  | cpxImm (v : Byte)
  | cpxZp (zp : Byte)
  | cpxAbs (addr : Word)
  | cpyImm (v : Byte)
  | cpyZp (zp : Byte)
  | cpyAbs (addr : Word)
  -- IncDec
  | incZp (zp : Byte)
  | incZpx (zp : Byte)
  | incAbs (addr : Word)
  | incAbx (addr : Word)
  | decZp (zp : Byte)
  | decZpx (zp : Byte)
  | decAbs (addr : Word)
  | decAbx (addr : Word)
  | inx
  | iny
  | dex
  | dey
  -- Shift
  | aslAcc
  | aslZp (zp : Byte)
  | aslZpx (zp : Byte)
  | aslAbs (addr : Word)
  | aslAbx (addr : Word)
  | lsrAcc
  | lsrZp (zp : Byte)
  | lsrZpx (zp : Byte)
  | lsrAbs (addr : Word)
  | lsrAbx (addr : Word)
  | rolAcc
  | rolZp (zp : Byte)
  | rolZpx (zp : Byte)
  | rolAbs (addr : Word)
  | rolAbx (addr : Word)
  | rorAcc
  | rorZp (zp : Byte)
  | rorZpx (zp : Byte)
  | rorAbs (addr : Word)
  | rorAbx (addr : Word)
  -- Control
  | jmpAbs (addr : Word)
  | jmpInd (ptr : Word)
  | jsr (addr : Word)
  | rts
  -- Branch
  | bpl (disp : Byte)
  | bmi (disp : Byte)
  | bvc (disp : Byte)
  | bvs (disp : Byte)
  | bcc (disp : Byte)
  | bcs (disp : Byte)
  | bne (disp : Byte)
  | beq (disp : Byte)
  -- FlagOps
  | clc
  | sec
  | cli
  | sei
  | cld
  | sed
  | clv
  -- System
  | nop
  | brk
  | rti
  deriving DecidableEq, Repr

end Sys2Proof
end

