-- ==== Sys2Proof/WellFormed.lean ====
section
/-! DEFINITION. What must hold of an instruction and of the parameters for the spec to describe them. -/

namespace Sys2Proof

/-- "Operand bytes have no reserved values: every value 0x00 to 0xFF is legal in every operand byte"
(spec/30_encoding.md R86), and the types of Instr's fields already have exactly the operands' widths, so every term of
Instr is an instruction of the machine: there is nothing to check. -/
def Instr.wellFormed (_ : Instr) : Bool := true

/-- `MEM_SIZE` is 1 to 65536: larger values are refused, addresses have 16 bits (R3, U7). -/
def Config.memSizeOk (c : Config) : Bool := 1 ≤ c.memSize && c.memSize ≤ 65536

/-- The window holds every offset up to 0x3D (R3, U8). -/
def Config.windowHoldsRegisters (c : Config) : Bool := 0x3E ≤ c.pwinLen

/-- The window does not pass 0xFFFF (U8). -/
def Config.windowInSpace (c : Config) : Bool := c.pwinBase.toNat + c.pwinLen ≤ 65536

/-- The wait strobe is an offset of the write side, 0x00 to 0x2C (R3). -/
def Config.wsyncOk (c : Config) : Bool := c.wsyncOffset ≤ 0x2C

/-- The collision-latch clear is an offset of the write side (R3). -/
def Config.cxclrOk (c : Config) : Bool := c.cxclrOffset ≤ 0x2C

/-- `LINE_LEN` is positive and a multiple of the clock ratio (R3, R113, U10). -/
def Config.lineOk (c : Config) : Bool := 0 < c.lineLen && c.lineLen % clkRatio == 0

/-- `HBLANK_START` is below `LINE_LEN` (R3, U10). -/
def Config.hblankOk (c : Config) : Bool := c.hblankStart < c.lineLen

/-- The colour table is a partial map from even codes: no odd key, no key twice (R3, R52). -/
def Config.colorTableOk (c : Config) : Bool :=
  c.colorTable.all (fun e => e.1 &&& 1#8 == 0#8) && (c.colorTable.map Prod.fst).Nodup

/-- The parameters are ones the spec accepts. -/
def Config.wf (c : Config) : Bool :=
  c.memSizeOk && c.windowHoldsRegisters && c.windowInSpace && c.wsyncOk && c.cxclrOk && c.lineOk && c.hblankOk &&
    c.colorTableOk

end Sys2Proof
end

