-- ==== Sys2Proof/Decode.lean ====
section
/-! DEFINITION. Decoding, encoding, and the tables both are read from (spec/30_encoding.md R80 to R87). The decoder reads
`opcodeTable`, the encoder reads `Instr.row` and `Instr.mode`; the two tables are written separately from the same
table of the spec, and that they agree is a statement, not a definition. -/

namespace Sys2Proof

/-! ## Byte order -/

/-- `{hi, lo}`, the word of two bytes (spec/00_scope.md R4). -/
def wordOf (hi lo : Byte) : Word := hi ++ lo

/-- The high byte of a word, `w[15:8]`. -/
def hiByte (w : Word) : Byte := w.extractLsb' 8 8

/-- The low byte of a word, `w[7:0]`. -/
def loByte (w : Word) : Byte := w.extractLsb' 0 8

/-! ## Formats and tables -/

/-- What the opcode table gives for an opcode byte beside its addressing mode (R80, R84). -/
structure Row where
  opcode : Byte
  mnemonic : Mnemonic
  base : Nat
  sensitive : Bool
  deriving DecidableEq, Repr

/-- The three formats of R81: the instruction itself, or what its operand bytes make of it. Two operand bytes are taken
as the word they assemble, low byte first (R82, R53). -/
inductive Form where
  | f1 (i : Instr)
  | f2 (make : Byte → Instr)
  | f3 (make : Word → Instr)

/-- The length in bytes that the mode gives an instruction (R81, the table of R130). -/
def ModeTag.length : ModeTag → Nat
  | .imp | .acc => 1
  | .imm | .zp | .zpx | .zpy | .izx | .izy | .rel => 2
  | .abs | .abx | .aby | .ind => 3

/-- The tag of a memory mode. -/
def MemMode.tag : MemMode → ModeTag
  | .zp _ => .zp | .zpx _ => .zpx | .zpy _ => .zpy | .abs _ => .abs
  | .abx _ => .abx | .aby _ => .aby | .izx _ => .izx | .izy _ => .izy

/-- The tag of an addressing mode. -/
def AddrMode.tag : AddrMode → ModeTag
  | .imp => .imp | .acc => .acc | .imm _ => .imm | .mem m => m.tag | .ind _ => .ind | .rel _ => .rel

/-- A read instruction's operand as an addressing mode. -/
def Src.mode : Src → AddrMode
  | .imm v => .imm v
  | .mem m => .mem m

/-- A read-modify-write instruction's operand as an addressing mode. -/
def Dst.mode : Dst → AddrMode
  | .acc => .acc
  | .mem m => .mem m

/-- A 16-bit operand as the instruction's two operand bytes: `op1` is the low byte (R82, R53). -/
def wordBytes (w : Word) : List Byte := [loByte w, hiByte w]

/-- The operand bytes of a memory mode, in address order (R81, R82). -/
def MemMode.operandBytes : MemMode → List Byte
  | .zp a | .zpx a | .zpy a | .izx a | .izy a => [a]
  | .abs w | .abx w | .aby w => wordBytes w

/-- The operand bytes of an addressing mode, in address order (R81, R82). -/
def AddrMode.operandBytes : AddrMode → List Byte
  | .imp | .acc => []
  | .imm v => [v]
  | .mem m => m.operandBytes
  | .ind w => wordBytes w
  | .rel d => [d]

/-- The row of the opcode table that an instruction stands for: opcode byte, mnemonic, base cycles, page-cross
sensitivity (R84, R87). -/
def Instr.row : Instr → Row
  | .ldaImm _ => ⟨0xA9, .lda, 2, false⟩
  | .ldaZp _ => ⟨0xA5, .lda, 3, false⟩
  | .ldaZpx _ => ⟨0xB5, .lda, 4, false⟩
  | .ldaAbs _ => ⟨0xAD, .lda, 4, false⟩
  | .ldaAbx _ => ⟨0xBD, .lda, 4, true⟩
  | .ldaAby _ => ⟨0xB9, .lda, 4, true⟩
  | .ldaIzx _ => ⟨0xA1, .lda, 6, false⟩
  | .ldaIzy _ => ⟨0xB1, .lda, 5, true⟩
  | .ldxImm _ => ⟨0xA2, .ldx, 2, false⟩
  | .ldxZp _ => ⟨0xA6, .ldx, 3, false⟩
  | .ldxZpy _ => ⟨0xB6, .ldx, 4, false⟩
  | .ldxAbs _ => ⟨0xAE, .ldx, 4, false⟩
  | .ldxAby _ => ⟨0xBE, .ldx, 4, true⟩
  | .ldyImm _ => ⟨0xA0, .ldy, 2, false⟩
  | .ldyZp _ => ⟨0xA4, .ldy, 3, false⟩
  | .ldyZpx _ => ⟨0xB4, .ldy, 4, false⟩
  | .ldyAbs _ => ⟨0xAC, .ldy, 4, false⟩
  | .ldyAbx _ => ⟨0xBC, .ldy, 4, true⟩
  | .staZp _ => ⟨0x85, .sta, 3, false⟩
  | .staZpx _ => ⟨0x95, .sta, 4, false⟩
  | .staAbs _ => ⟨0x8D, .sta, 4, false⟩
  | .staAbx _ => ⟨0x9D, .sta, 5, false⟩
  | .staAby _ => ⟨0x99, .sta, 5, false⟩
  | .staIzx _ => ⟨0x81, .sta, 6, false⟩
  | .staIzy _ => ⟨0x91, .sta, 6, false⟩
  | .stxZp _ => ⟨0x86, .stx, 3, false⟩
  | .stxZpy _ => ⟨0x96, .stx, 4, false⟩
  | .stxAbs _ => ⟨0x8E, .stx, 4, false⟩
  | .styZp _ => ⟨0x84, .sty, 3, false⟩
  | .styZpx _ => ⟨0x94, .sty, 4, false⟩
  | .styAbs _ => ⟨0x8C, .sty, 4, false⟩
  | .tax => ⟨0xAA, .tax, 2, false⟩
  | .tay => ⟨0xA8, .tay, 2, false⟩
  | .txa => ⟨0x8A, .txa, 2, false⟩
  | .tya => ⟨0x98, .tya, 2, false⟩
  | .tsx => ⟨0xBA, .tsx, 2, false⟩
  | .txs => ⟨0x9A, .txs, 2, false⟩
  | .pha => ⟨0x48, .pha, 3, false⟩
  | .php => ⟨0x08, .php, 3, false⟩
  | .pla => ⟨0x68, .pla, 4, false⟩
  | .plp => ⟨0x28, .plp, 4, false⟩
  | .oraImm _ => ⟨0x09, .ora, 2, false⟩
  | .oraZp _ => ⟨0x05, .ora, 3, false⟩
  | .oraZpx _ => ⟨0x15, .ora, 4, false⟩
  | .oraAbs _ => ⟨0x0D, .ora, 4, false⟩
  | .oraAbx _ => ⟨0x1D, .ora, 4, true⟩
  | .oraAby _ => ⟨0x19, .ora, 4, true⟩
  | .oraIzx _ => ⟨0x01, .ora, 6, false⟩
  | .oraIzy _ => ⟨0x11, .ora, 5, true⟩
  | .andImm _ => ⟨0x29, .and, 2, false⟩
  | .andZp _ => ⟨0x25, .and, 3, false⟩
  | .andZpx _ => ⟨0x35, .and, 4, false⟩
  | .andAbs _ => ⟨0x2D, .and, 4, false⟩
  | .andAbx _ => ⟨0x3D, .and, 4, true⟩
  | .andAby _ => ⟨0x39, .and, 4, true⟩
  | .andIzx _ => ⟨0x21, .and, 6, false⟩
  | .andIzy _ => ⟨0x31, .and, 5, true⟩
  | .eorImm _ => ⟨0x49, .eor, 2, false⟩
  | .eorZp _ => ⟨0x45, .eor, 3, false⟩
  | .eorZpx _ => ⟨0x55, .eor, 4, false⟩
  | .eorAbs _ => ⟨0x4D, .eor, 4, false⟩
  | .eorAbx _ => ⟨0x5D, .eor, 4, true⟩
  | .eorAby _ => ⟨0x59, .eor, 4, true⟩
  | .eorIzx _ => ⟨0x41, .eor, 6, false⟩
  | .eorIzy _ => ⟨0x51, .eor, 5, true⟩
  | .bitZp _ => ⟨0x24, .bit, 3, false⟩
  | .bitAbs _ => ⟨0x2C, .bit, 4, false⟩
  | .adcImm _ => ⟨0x69, .adc, 2, false⟩
  | .adcZp _ => ⟨0x65, .adc, 3, false⟩
  | .adcZpx _ => ⟨0x75, .adc, 4, false⟩
  | .adcAbs _ => ⟨0x6D, .adc, 4, false⟩
  | .adcAbx _ => ⟨0x7D, .adc, 4, true⟩
  | .adcAby _ => ⟨0x79, .adc, 4, true⟩
  | .adcIzx _ => ⟨0x61, .adc, 6, false⟩
  | .adcIzy _ => ⟨0x71, .adc, 5, true⟩
  | .sbcImm _ => ⟨0xE9, .sbc, 2, false⟩
  | .sbcZp _ => ⟨0xE5, .sbc, 3, false⟩
  | .sbcZpx _ => ⟨0xF5, .sbc, 4, false⟩
  | .sbcAbs _ => ⟨0xED, .sbc, 4, false⟩
  | .sbcAbx _ => ⟨0xFD, .sbc, 4, true⟩
  | .sbcAby _ => ⟨0xF9, .sbc, 4, true⟩
  | .sbcIzx _ => ⟨0xE1, .sbc, 6, false⟩
  | .sbcIzy _ => ⟨0xF1, .sbc, 5, true⟩
  | .cmpImm _ => ⟨0xC9, .cmp, 2, false⟩
  | .cmpZp _ => ⟨0xC5, .cmp, 3, false⟩
  | .cmpZpx _ => ⟨0xD5, .cmp, 4, false⟩
  | .cmpAbs _ => ⟨0xCD, .cmp, 4, false⟩
  | .cmpAbx _ => ⟨0xDD, .cmp, 4, true⟩
  | .cmpAby _ => ⟨0xD9, .cmp, 4, true⟩
  | .cmpIzx _ => ⟨0xC1, .cmp, 6, false⟩
  | .cmpIzy _ => ⟨0xD1, .cmp, 5, true⟩
  | .cpxImm _ => ⟨0xE0, .cpx, 2, false⟩
  | .cpxZp _ => ⟨0xE4, .cpx, 3, false⟩
  | .cpxAbs _ => ⟨0xEC, .cpx, 4, false⟩
  | .cpyImm _ => ⟨0xC0, .cpy, 2, false⟩
  | .cpyZp _ => ⟨0xC4, .cpy, 3, false⟩
  | .cpyAbs _ => ⟨0xCC, .cpy, 4, false⟩
  | .incZp _ => ⟨0xE6, .inc, 5, false⟩
  | .incZpx _ => ⟨0xF6, .inc, 6, false⟩
  | .incAbs _ => ⟨0xEE, .inc, 6, false⟩
  | .incAbx _ => ⟨0xFE, .inc, 7, false⟩
  | .decZp _ => ⟨0xC6, .dec, 5, false⟩
  | .decZpx _ => ⟨0xD6, .dec, 6, false⟩
  | .decAbs _ => ⟨0xCE, .dec, 6, false⟩
  | .decAbx _ => ⟨0xDE, .dec, 7, false⟩
  | .inx => ⟨0xE8, .inx, 2, false⟩
  | .iny => ⟨0xC8, .iny, 2, false⟩
  | .dex => ⟨0xCA, .dex, 2, false⟩
  | .dey => ⟨0x88, .dey, 2, false⟩
  | .aslAcc => ⟨0x0A, .asl, 2, false⟩
  | .aslZp _ => ⟨0x06, .asl, 5, false⟩
  | .aslZpx _ => ⟨0x16, .asl, 6, false⟩
  | .aslAbs _ => ⟨0x0E, .asl, 6, false⟩
  | .aslAbx _ => ⟨0x1E, .asl, 7, false⟩
  | .lsrAcc => ⟨0x4A, .lsr, 2, false⟩
  | .lsrZp _ => ⟨0x46, .lsr, 5, false⟩
  | .lsrZpx _ => ⟨0x56, .lsr, 6, false⟩
  | .lsrAbs _ => ⟨0x4E, .lsr, 6, false⟩
  | .lsrAbx _ => ⟨0x5E, .lsr, 7, false⟩
  | .rolAcc => ⟨0x2A, .rol, 2, false⟩
  | .rolZp _ => ⟨0x26, .rol, 5, false⟩
  | .rolZpx _ => ⟨0x36, .rol, 6, false⟩
  | .rolAbs _ => ⟨0x2E, .rol, 6, false⟩
  | .rolAbx _ => ⟨0x3E, .rol, 7, false⟩
  | .rorAcc => ⟨0x6A, .ror, 2, false⟩
  | .rorZp _ => ⟨0x66, .ror, 5, false⟩
  | .rorZpx _ => ⟨0x76, .ror, 6, false⟩
  | .rorAbs _ => ⟨0x6E, .ror, 6, false⟩
  | .rorAbx _ => ⟨0x7E, .ror, 7, false⟩
  | .jmpAbs _ => ⟨0x4C, .jmp, 3, false⟩
  | .jmpInd _ => ⟨0x6C, .jmp, 5, false⟩
  | .jsr _ => ⟨0x20, .jsr, 6, false⟩
  | .rts => ⟨0x60, .rts, 6, false⟩
  | .bpl _ => ⟨0x10, .bpl, 2, false⟩
  | .bmi _ => ⟨0x30, .bmi, 2, false⟩
  | .bvc _ => ⟨0x50, .bvc, 2, false⟩
  | .bvs _ => ⟨0x70, .bvs, 2, false⟩
  | .bcc _ => ⟨0x90, .bcc, 2, false⟩
  | .bcs _ => ⟨0xB0, .bcs, 2, false⟩
  | .bne _ => ⟨0xD0, .bne, 2, false⟩
  | .beq _ => ⟨0xF0, .beq, 2, false⟩
  | .clc => ⟨0x18, .clc, 2, false⟩
  | .sec => ⟨0x38, .sec, 2, false⟩
  | .cli => ⟨0x58, .cli, 2, false⟩
  | .sei => ⟨0x78, .sei, 2, false⟩
  | .cld => ⟨0xD8, .cld, 2, false⟩
  | .sed => ⟨0xF8, .sed, 2, false⟩
  | .clv => ⟨0xB8, .clv, 2, false⟩
  | .nop => ⟨0xEA, .nop, 2, false⟩
  | .brk => ⟨0x00, .brk, 7, false⟩
  | .rti => ⟨0x40, .rti, 6, false⟩

/-- The addressing mode of an instruction with its operand bytes (R84, R130). -/
def Instr.mode : Instr → AddrMode
  | .ldaImm v => .imm v
  | .ldaZp zp => .mem (.zp zp)
  | .ldaZpx zp => .mem (.zpx zp)
  | .ldaAbs addr => .mem (.abs addr)
  | .ldaAbx addr => .mem (.abx addr)
  | .ldaAby addr => .mem (.aby addr)
  | .ldaIzx zp => .mem (.izx zp)
  | .ldaIzy zp => .mem (.izy zp)
  | .ldxImm v => .imm v
  | .ldxZp zp => .mem (.zp zp)
  | .ldxZpy zp => .mem (.zpy zp)
  | .ldxAbs addr => .mem (.abs addr)
  | .ldxAby addr => .mem (.aby addr)
  | .ldyImm v => .imm v
  | .ldyZp zp => .mem (.zp zp)
  | .ldyZpx zp => .mem (.zpx zp)
  | .ldyAbs addr => .mem (.abs addr)
  | .ldyAbx addr => .mem (.abx addr)
  | .staZp zp => .mem (.zp zp)
  | .staZpx zp => .mem (.zpx zp)
  | .staAbs addr => .mem (.abs addr)
  | .staAbx addr => .mem (.abx addr)
  | .staAby addr => .mem (.aby addr)
  | .staIzx zp => .mem (.izx zp)
  | .staIzy zp => .mem (.izy zp)
  | .stxZp zp => .mem (.zp zp)
  | .stxZpy zp => .mem (.zpy zp)
  | .stxAbs addr => .mem (.abs addr)
  | .styZp zp => .mem (.zp zp)
  | .styZpx zp => .mem (.zpx zp)
  | .styAbs addr => .mem (.abs addr)
  | .tax => .imp
  | .tay => .imp
  | .txa => .imp
  | .tya => .imp
  | .tsx => .imp
  | .txs => .imp
  | .pha => .imp
  | .php => .imp
  | .pla => .imp
  | .plp => .imp
  | .oraImm v => .imm v
  | .oraZp zp => .mem (.zp zp)
  | .oraZpx zp => .mem (.zpx zp)
  | .oraAbs addr => .mem (.abs addr)
  | .oraAbx addr => .mem (.abx addr)
  | .oraAby addr => .mem (.aby addr)
  | .oraIzx zp => .mem (.izx zp)
  | .oraIzy zp => .mem (.izy zp)
  | .andImm v => .imm v
  | .andZp zp => .mem (.zp zp)
  | .andZpx zp => .mem (.zpx zp)
  | .andAbs addr => .mem (.abs addr)
  | .andAbx addr => .mem (.abx addr)
  | .andAby addr => .mem (.aby addr)
  | .andIzx zp => .mem (.izx zp)
  | .andIzy zp => .mem (.izy zp)
  | .eorImm v => .imm v
  | .eorZp zp => .mem (.zp zp)
  | .eorZpx zp => .mem (.zpx zp)
  | .eorAbs addr => .mem (.abs addr)
  | .eorAbx addr => .mem (.abx addr)
  | .eorAby addr => .mem (.aby addr)
  | .eorIzx zp => .mem (.izx zp)
  | .eorIzy zp => .mem (.izy zp)
  | .bitZp zp => .mem (.zp zp)
  | .bitAbs addr => .mem (.abs addr)
  | .adcImm v => .imm v
  | .adcZp zp => .mem (.zp zp)
  | .adcZpx zp => .mem (.zpx zp)
  | .adcAbs addr => .mem (.abs addr)
  | .adcAbx addr => .mem (.abx addr)
  | .adcAby addr => .mem (.aby addr)
  | .adcIzx zp => .mem (.izx zp)
  | .adcIzy zp => .mem (.izy zp)
  | .sbcImm v => .imm v
  | .sbcZp zp => .mem (.zp zp)
  | .sbcZpx zp => .mem (.zpx zp)
  | .sbcAbs addr => .mem (.abs addr)
  | .sbcAbx addr => .mem (.abx addr)
  | .sbcAby addr => .mem (.aby addr)
  | .sbcIzx zp => .mem (.izx zp)
  | .sbcIzy zp => .mem (.izy zp)
  | .cmpImm v => .imm v
  | .cmpZp zp => .mem (.zp zp)
  | .cmpZpx zp => .mem (.zpx zp)
  | .cmpAbs addr => .mem (.abs addr)
  | .cmpAbx addr => .mem (.abx addr)
  | .cmpAby addr => .mem (.aby addr)
  | .cmpIzx zp => .mem (.izx zp)
  | .cmpIzy zp => .mem (.izy zp)
  | .cpxImm v => .imm v
  | .cpxZp zp => .mem (.zp zp)
  | .cpxAbs addr => .mem (.abs addr)
  | .cpyImm v => .imm v
  | .cpyZp zp => .mem (.zp zp)
  | .cpyAbs addr => .mem (.abs addr)
  | .incZp zp => .mem (.zp zp)
  | .incZpx zp => .mem (.zpx zp)
  | .incAbs addr => .mem (.abs addr)
  | .incAbx addr => .mem (.abx addr)
  | .decZp zp => .mem (.zp zp)
  | .decZpx zp => .mem (.zpx zp)
  | .decAbs addr => .mem (.abs addr)
  | .decAbx addr => .mem (.abx addr)
  | .inx => .imp
  | .iny => .imp
  | .dex => .imp
  | .dey => .imp
  | .aslAcc => .acc
  | .aslZp zp => .mem (.zp zp)
  | .aslZpx zp => .mem (.zpx zp)
  | .aslAbs addr => .mem (.abs addr)
  | .aslAbx addr => .mem (.abx addr)
  | .lsrAcc => .acc
  | .lsrZp zp => .mem (.zp zp)
  | .lsrZpx zp => .mem (.zpx zp)
  | .lsrAbs addr => .mem (.abs addr)
  | .lsrAbx addr => .mem (.abx addr)
  | .rolAcc => .acc
  | .rolZp zp => .mem (.zp zp)
  | .rolZpx zp => .mem (.zpx zp)
  | .rolAbs addr => .mem (.abs addr)
  | .rolAbx addr => .mem (.abx addr)
  | .rorAcc => .acc
  | .rorZp zp => .mem (.zp zp)
  | .rorZpx zp => .mem (.zpx zp)
  | .rorAbs addr => .mem (.abs addr)
  | .rorAbx addr => .mem (.abx addr)
  | .jmpAbs addr => .mem (.abs addr)
  | .jmpInd ptr => .ind ptr
  | .jsr addr => .mem (.abs addr)
  | .rts => .imp
  | .bpl disp => .rel disp
  | .bmi disp => .rel disp
  | .bvc disp => .rel disp
  | .bvs disp => .rel disp
  | .bcc disp => .rel disp
  | .bcs disp => .rel disp
  | .bne disp => .rel disp
  | .beq disp => .rel disp
  | .clc => .imp
  | .sec => .imp
  | .cli => .imp
  | .sei => .imp
  | .cld => .imp
  | .sed => .imp
  | .clv => .imp
  | .nop => .imp
  | .brk => .imp
  | .rti => .imp

/-- The opcode table read from the byte's side (R83, R84): what opcode byte `op` introduces, or nothing for one of the
105 illegal bytes (R85). -/
def opcodeTable (op : Byte) : Option Form :=
  match op with
  | 0x00#8 => some (.f1 .brk)
  | 0x01#8 => some (.f2 .oraIzx)
  | 0x05#8 => some (.f2 .oraZp)
  | 0x06#8 => some (.f2 .aslZp)
  | 0x08#8 => some (.f1 .php)
  | 0x09#8 => some (.f2 .oraImm)
  | 0x0A#8 => some (.f1 .aslAcc)
  | 0x0D#8 => some (.f3 .oraAbs)
  | 0x0E#8 => some (.f3 .aslAbs)
  | 0x10#8 => some (.f2 .bpl)
  | 0x11#8 => some (.f2 .oraIzy)
  | 0x15#8 => some (.f2 .oraZpx)
  | 0x16#8 => some (.f2 .aslZpx)
  | 0x18#8 => some (.f1 .clc)
  | 0x19#8 => some (.f3 .oraAby)
  | 0x1D#8 => some (.f3 .oraAbx)
  | 0x1E#8 => some (.f3 .aslAbx)
  | 0x20#8 => some (.f3 .jsr)
  | 0x21#8 => some (.f2 .andIzx)
  | 0x24#8 => some (.f2 .bitZp)
  | 0x25#8 => some (.f2 .andZp)
  | 0x26#8 => some (.f2 .rolZp)
  | 0x28#8 => some (.f1 .plp)
  | 0x29#8 => some (.f2 .andImm)
  | 0x2A#8 => some (.f1 .rolAcc)
  | 0x2C#8 => some (.f3 .bitAbs)
  | 0x2D#8 => some (.f3 .andAbs)
  | 0x2E#8 => some (.f3 .rolAbs)
  | 0x30#8 => some (.f2 .bmi)
  | 0x31#8 => some (.f2 .andIzy)
  | 0x35#8 => some (.f2 .andZpx)
  | 0x36#8 => some (.f2 .rolZpx)
  | 0x38#8 => some (.f1 .sec)
  | 0x39#8 => some (.f3 .andAby)
  | 0x3D#8 => some (.f3 .andAbx)
  | 0x3E#8 => some (.f3 .rolAbx)
  | 0x40#8 => some (.f1 .rti)
  | 0x41#8 => some (.f2 .eorIzx)
  | 0x45#8 => some (.f2 .eorZp)
  | 0x46#8 => some (.f2 .lsrZp)
  | 0x48#8 => some (.f1 .pha)
  | 0x49#8 => some (.f2 .eorImm)
  | 0x4A#8 => some (.f1 .lsrAcc)
  | 0x4C#8 => some (.f3 .jmpAbs)
  | 0x4D#8 => some (.f3 .eorAbs)
  | 0x4E#8 => some (.f3 .lsrAbs)
  | 0x50#8 => some (.f2 .bvc)
  | 0x51#8 => some (.f2 .eorIzy)
  | 0x55#8 => some (.f2 .eorZpx)
  | 0x56#8 => some (.f2 .lsrZpx)
  | 0x58#8 => some (.f1 .cli)
  | 0x59#8 => some (.f3 .eorAby)
  | 0x5D#8 => some (.f3 .eorAbx)
  | 0x5E#8 => some (.f3 .lsrAbx)
  | 0x60#8 => some (.f1 .rts)
  | 0x61#8 => some (.f2 .adcIzx)
  | 0x65#8 => some (.f2 .adcZp)
  | 0x66#8 => some (.f2 .rorZp)
  | 0x68#8 => some (.f1 .pla)
  | 0x69#8 => some (.f2 .adcImm)
  | 0x6A#8 => some (.f1 .rorAcc)
  | 0x6C#8 => some (.f3 .jmpInd)
  | 0x6D#8 => some (.f3 .adcAbs)
  | 0x6E#8 => some (.f3 .rorAbs)
  | 0x70#8 => some (.f2 .bvs)
  | 0x71#8 => some (.f2 .adcIzy)
  | 0x75#8 => some (.f2 .adcZpx)
  | 0x76#8 => some (.f2 .rorZpx)
  | 0x78#8 => some (.f1 .sei)
  | 0x79#8 => some (.f3 .adcAby)
  | 0x7D#8 => some (.f3 .adcAbx)
  | 0x7E#8 => some (.f3 .rorAbx)
  | 0x81#8 => some (.f2 .staIzx)
  | 0x84#8 => some (.f2 .styZp)
  | 0x85#8 => some (.f2 .staZp)
  | 0x86#8 => some (.f2 .stxZp)
  | 0x88#8 => some (.f1 .dey)
  | 0x8A#8 => some (.f1 .txa)
  | 0x8C#8 => some (.f3 .styAbs)
  | 0x8D#8 => some (.f3 .staAbs)
  | 0x8E#8 => some (.f3 .stxAbs)
  | 0x90#8 => some (.f2 .bcc)
  | 0x91#8 => some (.f2 .staIzy)
  | 0x94#8 => some (.f2 .styZpx)
  | 0x95#8 => some (.f2 .staZpx)
  | 0x96#8 => some (.f2 .stxZpy)
  | 0x98#8 => some (.f1 .tya)
  | 0x99#8 => some (.f3 .staAby)
  | 0x9A#8 => some (.f1 .txs)
  | 0x9D#8 => some (.f3 .staAbx)
  | 0xA0#8 => some (.f2 .ldyImm)
  | 0xA1#8 => some (.f2 .ldaIzx)
  | 0xA2#8 => some (.f2 .ldxImm)
  | 0xA4#8 => some (.f2 .ldyZp)
  | 0xA5#8 => some (.f2 .ldaZp)
  | 0xA6#8 => some (.f2 .ldxZp)
  | 0xA8#8 => some (.f1 .tay)
  | 0xA9#8 => some (.f2 .ldaImm)
  | 0xAA#8 => some (.f1 .tax)
  | 0xAC#8 => some (.f3 .ldyAbs)
  | 0xAD#8 => some (.f3 .ldaAbs)
  | 0xAE#8 => some (.f3 .ldxAbs)
  | 0xB0#8 => some (.f2 .bcs)
  | 0xB1#8 => some (.f2 .ldaIzy)
  | 0xB4#8 => some (.f2 .ldyZpx)
  | 0xB5#8 => some (.f2 .ldaZpx)
  | 0xB6#8 => some (.f2 .ldxZpy)
  | 0xB8#8 => some (.f1 .clv)
  | 0xB9#8 => some (.f3 .ldaAby)
  | 0xBA#8 => some (.f1 .tsx)
  | 0xBC#8 => some (.f3 .ldyAbx)
  | 0xBD#8 => some (.f3 .ldaAbx)
  | 0xBE#8 => some (.f3 .ldxAby)
  | 0xC0#8 => some (.f2 .cpyImm)
  | 0xC1#8 => some (.f2 .cmpIzx)
  | 0xC4#8 => some (.f2 .cpyZp)
  | 0xC5#8 => some (.f2 .cmpZp)
  | 0xC6#8 => some (.f2 .decZp)
  | 0xC8#8 => some (.f1 .iny)
  | 0xC9#8 => some (.f2 .cmpImm)
  | 0xCA#8 => some (.f1 .dex)
  | 0xCC#8 => some (.f3 .cpyAbs)
  | 0xCD#8 => some (.f3 .cmpAbs)
  | 0xCE#8 => some (.f3 .decAbs)
  | 0xD0#8 => some (.f2 .bne)
  | 0xD1#8 => some (.f2 .cmpIzy)
  | 0xD5#8 => some (.f2 .cmpZpx)
  | 0xD6#8 => some (.f2 .decZpx)
  | 0xD8#8 => some (.f1 .cld)
  | 0xD9#8 => some (.f3 .cmpAby)
  | 0xDD#8 => some (.f3 .cmpAbx)
  | 0xDE#8 => some (.f3 .decAbx)
  | 0xE0#8 => some (.f2 .cpxImm)
  | 0xE1#8 => some (.f2 .sbcIzx)
  | 0xE4#8 => some (.f2 .cpxZp)
  | 0xE5#8 => some (.f2 .sbcZp)
  | 0xE6#8 => some (.f2 .incZp)
  | 0xE8#8 => some (.f1 .inx)
  | 0xE9#8 => some (.f2 .sbcImm)
  | 0xEA#8 => some (.f1 .nop)
  | 0xEC#8 => some (.f3 .cpxAbs)
  | 0xED#8 => some (.f3 .sbcAbs)
  | 0xEE#8 => some (.f3 .incAbs)
  | 0xF0#8 => some (.f2 .beq)
  | 0xF1#8 => some (.f2 .sbcIzy)
  | 0xF5#8 => some (.f2 .sbcZpx)
  | 0xF6#8 => some (.f2 .incZpx)
  | 0xF8#8 => some (.f1 .sed)
  | 0xF9#8 => some (.f3 .sbcAby)
  | 0xFD#8 => some (.f3 .sbcAbx)
  | 0xFE#8 => some (.f3 .incAbx)
  | _ => none

/-- The mnemonic of an instruction. -/
def Instr.mnemonic (i : Instr) : Mnemonic := i.row.mnemonic

/-- The length of an instruction in bytes (R81). -/
def Instr.length (i : Instr) : Nat := i.mode.tag.length

/-- An instruction's entry in the "Encoding" line of its rule: opcode, mode, base cycles, page-cross sensitivity. -/
def Instr.encodingEntry (i : Instr) : Byte × ModeTag × Nat × Bool :=
  (i.row.opcode, i.mode.tag, i.row.base, i.row.sensitive)

/-! ## The decoder -/

/-- Why bytes are not an instruction. -/
inductive DecodeReject where
  /-- There is no byte to read an opcode from. Never raised by the machine, which always fetches one. -/
  | noBytes
  /-- The first byte is one of the 105 illegal opcodes (R85); the machine raises DecodeError for it. Safe. -/
  | illegalOpcode (opcode : Byte)
  /-- The list ends before the operand bytes of the opcode do. Never raised by the machine, whose fetch wraps. -/
  | truncated (opcode : Byte)
  deriving DecidableEq, Repr

/-- Decoding, total on any bytes: the instruction the first bytes stand for and the bytes after it, or why there is none
(R83). -/
def decode : List Byte → Except DecodeReject (Instr × List Byte)
  | [] => .error .noBytes
  | op :: rest =>
    match opcodeTable op with
    | none => .error (.illegalOpcode op)
    | some (.f1 i) => .ok (i, rest)
    | some (.f2 make) =>
      match rest with
      | b1 :: rest => .ok (make b1, rest)
      | [] => .error (.truncated op)
    | some (.f3 make) =>
      match rest with
      | b1 :: b2 :: rest => .ok (make (wordOf b2 b1), rest)
      | _ => .error (.truncated op)

/-- The encoder: the bytes of an instruction in address order, opcode first (R80 to R82). -/
def encode (i : Instr) : List Byte := i.row.opcode :: i.mode.operandBytes

/-! ## The opcode table's numbering of bits -/

/-- The bytes, in address order, of an instruction whose first `nbits` bits are those of `w` as the opcode table numbers
them (byte k is bits 8k+7 to 8k) and whose later bits are 0, up to the longest instruction, three bytes. -/
def tableWordBytes (nbits w : Nat) : List Byte :=
  let v := w % 2 ^ nbits
  [BitVec.ofNat 8 v, BitVec.ofNat 8 (v / 256), BitVec.ofNat 8 (v / 65536)]

/-- The instruction the decoder reads from those bytes, if it reads one. -/
def decodeTableWord (nbits w : Nat) : Option Instr :=
  match decode (tableWordBytes nbits w) with
  | .ok (i, _) => some i
  | .error _ => none

end Sys2Proof
end

