-- ==== Sys2Proof/Machine/State.lean ====
section
/-! DEFINITION. The state of the four blocks (spec/10_state.md R10 to R25), as plain data, and the state after reset. -/

namespace Sys2Proof.Machine

/-- The fatal events of the machine (spec/60_exceptions.md R270). The latch `State.fault` records the first one; the
machine then never moves again (R273). Both are the spec's own events, so recording them is safe. -/
inductive Fault where
  /-- Raised by a FETCHING tick whose opcode byte is one of the 105 illegal ones, with the byte and its address (R271). -/
  | decodeError (opcode : Byte) (addr : Word)
  /-- Raised by a bus access that is neither in the window nor below `MEM_SIZE`, with its address (R43, R272). -/
  | boundsError (addr : Word)
  deriving DecidableEq, Repr

/-- Why an instruction has no meaning here. -/
inductive Refusal where
  /-- Raised by an arm of the dispatch whose instruction has no meaning yet; safe. No arm raises it now. -/
  | notModelled (mnemonic : String)
  deriving DecidableEq, Repr

/-- One change of a read-side register by the environment: `RREG[0x30 + index]` becomes `value`
(spec/20_memory.md R49). -/
structure RregInput where
  index : Fin 14
  value : Byte
  deriving DecidableEq, Repr

/-- The backing store as address and byte pairs in one canonical form: addresses strictly rising and no byte equal to
what an unlisted address reads as (`Memory.wf`, Machine/Ops.lean). -/
abbrev Memory := List Host.Cell

/-- The machine's state. -/
structure State where
  /-- The implementation parameters (spec/00_scope.md R3): constants of the machine; no step changes them. -/
  cfg : Config
  /-- A, the accumulator (R10). -/
  a : Byte
  /-- X, an index register (R10). -/
  x : Byte
  /-- Y, an index register (R10). -/
  y : Byte
  /-- SP, the offset in the stack page of the next free stack byte (R11). -/
  sp : Byte
  /-- P, the status register, bits 7 to 0 N V Bh Bl D I Z C, all stored (R13). -/
  p : Byte
  /-- PC: between instructions, the address of the next opcode (R12). -/
  pc : Word
  /-- `remaining_cycles`, idle cycles left of the instruction just executed (R20). -/
  remaining : Nat
  /-- `suspended`, set by the wait strobe, cleared at the start of horizontal blank (R21). -/
  suspended : Bool
  /-- `fault`, the fatal-error latch (R22). -/
  fault : Option Fault
  /-- `div`, master ticks since the last CPU tick (R23). -/
  div : Nat
  /-- `hpos`, the scanline position in master ticks (R23). -/
  hpos : Nat
  /-- `WREG[0x00..0x2C]`, the write-side latches (R17, R45). -/
  wreg : Vector Byte 45
  /-- `RREG[0x30..0x3D]`, the read-side registers; index 0 is offset 0x30 (R17, R49). -/
  rreg : Vector Byte 14
  /-- `MEM`, the backing store (R19). -/
  mem : Memory
  /-- THE MODEL'S OWN FIELD: what the environment does to RREG before each master tick to come, first entry first; when the
  list is empty the environment does nothing (`RREG_ENV`, R49; notes/assumptions/5.md). -/
  inputs : List (List RregInput)
  deriving DecidableEq, Repr

/-- The machine right after reset, with the default parameters and nothing in memory (R25, spec/70_reset_and_hazards.md R300
to R302). A, X, Y, SP and P are the document's values. PC is the word at the reset vector, 0x0000 where nothing is listed
("With the backing store entirely zero the reset PC is 0x0000", R301). `remaining`, `suspended`, `fault`, `div`, `hpos` and
`wreg` are the spec's decisions D11 to D13 (notes/assumptions/11.md and 12.md); `rreg`, `mem` and `inputs` are the model's
choices (notes/assumptions/3.md, 4.md, 5.md). -/
def State.reset : State where
  cfg := Config.default
  a := 0x00
  x := 0x00
  y := 0x00
  sp := 0xFF
  p := 0x05
  pc := 0x0000
  remaining := 0
  suspended := false
  fault := none
  div := 0
  hpos := 0
  wreg := Vector.replicate 45 0x00
  rreg := Vector.replicate 14 0x00
  mem := []
  inputs := []

end Sys2Proof.Machine
end

