-- ==== Sys2Proof/Machine/Flags.lean ====
section
/-! DEFINITION. The status register P and every computation on it (spec/10_state.md R13 to R15; spec/41_addressing_modes.md
R146; spec/44_logic_arithmetic.md R190, R191, R195, R201). P stays the byte the spec packs; flags are read and written
through accessors. -/

namespace Sys2Proof.Machine

/-- The flags of P by the spec's names (R13). -/
inductive Flag where
  | n | v | bh | bl | d | i | z | c
  deriving DecidableEq, Repr

/-- The bit of P that holds a flag (R13). -/
def Flag.bit : Flag → Nat
  | .n => 7 | .v => 6 | .bh => 5 | .bl => 4 | .d => 3 | .i => 2 | .z => 1 | .c => 0

/-- The value of a flag. -/
def getFlag (p : Byte) (f : Flag) : Bool := p.getLsbD f.bit

/-- P with one flag replaced. -/
def setFlag (p : Byte) (f : Flag) (b : Bool) : Byte :=
  if b then p ||| (1#8 <<< f.bit) else p &&& ~~~(1#8 <<< f.bit)

/-- `SetZN(v)`: Z says whether the byte is zero, N is its bit 7 (R146). -/
def setZN (p v : Byte) : Byte := setFlag (setFlag p .z (v == 0#8)) .n v.msb

/-- The byte that BRK and PHP push: P with both break bits forced to 1 (R13, R181, R258). -/
def forcedBreak (p : Byte) : Byte := p ||| 0x30#8

/-- `V_RULE(a, m, r)` (R190). `observed` is a free value: the source does not write its formula. -/
def overflowRule (r : VRule) (a m res : Byte) : Bool :=
  match r with
  | .canonical => (a.msb == m.msb) && (res.msb != a.msb)
  | .observed => Config.observedOverflow a m res

/-- The natural sum of `AddWithCarry`: 0 to 511 (R190). -/
def adcSum (a m : Byte) (carry : Bool) : Nat := a.toNat + m.toNat + carry.toNat

/-- The result byte of `AddWithCarry` (R190). The Decimal flag is not read (R190, R201). -/
def adcResult (a m : Byte) (carry : Bool) : Byte := BitVec.ofNat 8 (adcSum a m carry)

/-- P after `AddWithCarry(m)`: C is the carry out of the wide sum, V is `V_RULE`, Z and N are the result's (R190). -/
def adcFlags (vr : VRule) (p a m : Byte) : Byte :=
  let r := adcResult a m (getFlag p .c)
  setZN (setFlag (setFlag p .c (255 < adcSum a m (getFlag p .c))) .v (overflowRule vr a m r)) r

/-- P after `Compare(r, m)`: C is "no borrow", Z is equality, N is bit 7 of the difference (R191). -/
def compareFlags (p r m : Byte) : Byte :=
  setFlag (setFlag (setFlag p .c (m.toNat ≤ r.toNat)) .z (r == m)) .n (r - m).msb

/-- P after BIT: Z from the conjunction with A, N and V copied from the operand (R195). -/
def bitFlags (p a m : Byte) : Byte :=
  setFlag (setFlag (setFlag p .z (a &&& m == 0#8)) .n m.msb) .v (m.getLsbD 6)

/-- P after a shift or rotate with result `r` that shifted out the bit `out` (R216 to R219). -/
def shiftFlags (p r : Byte) (out : Bool) : Byte := setZN (setFlag p .c out) r

/-! The four one-bit shifts on a byte (R216 to R219); `c` is the carry that enters a rotate. -/

/-- ASL: bit 0 of the result is 0 (R216). -/
def aslByte (old : Byte) : Byte := old <<< 1

/-- LSR: bit 7 of the result is 0 (R217). -/
def lsrByte (old : Byte) : Byte := old >>> 1

/-- ROL: the old carry enters bit 0 (R218). -/
def rolByte (old : Byte) (c : Bool) : Byte := (old <<< 1) ||| (if c then 0x01#8 else 0x00#8)

/-- ROR: the old carry enters bit 7 (R219). -/
def rorByte (old : Byte) (c : Bool) : Byte := (old >>> 1) ||| (if c then 0x80#8 else 0x00#8)

end Sys2Proof.Machine
end

