-- ==== Sys2Proof/Machine/Ops.lean ====
section
/-! DEFINITION. The named operations over memory, peripheral registers, the bus, the stack and the processor state that
every meaning is built from: the AddressBus and PeripheralRegisterFile (spec/20_memory.md R41 to R50), the stack
primitives (spec/41_addressing_modes.md R144, R145), the software interrupt and the return from it (spec/60_exceptions.md
R277, R278), and the frame every instruction runs in (spec/40_execution_cycle.md R103, R104). -/

namespace Sys2Proof.Machine

/-! ## The backing store -/

/-- What an address that memory does not list reads as: 0x00, a flushed byte (R44; DESIGN CHOICE for a byte nothing has
written, notes/assumptions/3.md). -/
def Memory.unlisted : Byte := 0x00

/-- The byte stored at an address. -/
def Memory.get : Memory → Nat → Byte
  | [], _ => Memory.unlisted
  | (k, v) :: rest, addr => if k = addr then v else Memory.get rest addr

/-- The store with one byte replaced, in canonical form. -/
def Memory.put : Memory → Nat → Byte → Memory
  | [], addr, v => if v = Memory.unlisted then [] else [(addr, v)]
  | (k, w) :: rest, addr, v =>
    if addr < k then
      if v = Memory.unlisted then (k, w) :: rest else (addr, v) :: (k, w) :: rest
    else if addr = k then
      if v = Memory.unlisted then rest else (addr, v) :: rest
    else (k, w) :: Memory.put rest addr v

/-- Canonical from an address on: addresses at least `lo`, strictly rising, no byte an unlisted one reads as. -/
def Memory.wfFrom (lo : Nat) : Memory → Bool
  | [] => true
  | (k, v) :: rest => decide (lo ≤ k) && decide (v ≠ Memory.unlisted) && Memory.wfFrom (k + 1) rest

/-- The canonical form. -/
def Memory.wf (m : Memory) : Bool := Memory.wfFrom 0 m

/-- Every listed address is below the bound: the store is an array of that many bytes (R19). -/
def Memory.below (m : Memory) (bound : Nat) : Bool := m.all fun c => decide (c.1 < bound)

/-! ## The peripheral registers -/

/-- An address is in the peripheral window: the first thing every access decodes (R41, R42). -/
def inWindow (c : Config) (addr : Word) : Bool :=
  decide (c.pwinBase.toNat ≤ addr.toNat) && decide (addr.toNat < c.pwinBase.toNat + c.pwinLen)

/-- The offset of an in-window address (R41). -/
def windowOffset (c : Config) (addr : Word) : Nat := addr.toNat - c.pwinBase.toNat

/-- `PeripheralRead(o)`: the read side gives the current register, every other offset the placeholder (R49, R50). -/
def State.periphRead (s : State) (o : Nat) : Byte :=
  if h : 0x30 ≤ o ∧ o ≤ 0x3D then s.rreg[o - 0x30] else s.cfg.rdPlaceholder

/-- The collision-latch clear: `RREG[0x30..0x37]` become 0x00, the input ports stay (R47). -/
def clearCollisions (r : Vector Byte 14) : Vector Byte 14 :=
  Vector.ofFn fun i => if i.val < 8 then 0x00 else r[i]

/-- The latch of a write-side register (R45). -/
def State.latchWreg (s : State) (o : Nat) (v : Byte) : State :=
  { s with wreg := s.wreg.setIfInBounds o v }

/-- The side effects of a write to a write-side offset: the wait strobe and the collision-latch clear (R46, R47). Every
other offset acts only on the raster collaborator, which sees the latch (R45). -/
def State.strobe (s : State) (o : Nat) : State :=
  { s with
    suspended := s.suspended || o == s.cfg.wsyncOffset
    rreg := if o == s.cfg.cxclrOffset then clearCollisions s.rreg else s.rreg }

/-- `PeripheralWrite(o, v)`: the write side latches and strobes (R45 to R47); every other offset is a no-op (R48). -/
def State.periphWrite (s : State) (o : Nat) (v : Byte) : State :=
  if o ≤ 0x2C then (s.latchWreg o v).strobe o else s

/-! ## The bus -/

/-- `MemRead(addr, 1)`: the window, then the backing store, else BoundsError (R41, R43). A read changes nothing (R56). -/
def State.memRead (s : State) (addr : Word) : Except Fault Byte :=
  if inWindow s.cfg addr then .ok (s.periphRead (windowOffset s.cfg addr))
  else if addr.toNat < s.cfg.memSize then .ok (Memory.get s.mem addr.toNat)
  else .error (.boundsError addr)

/-- `MemRead(addr, 2)`: the little-endian word at `addr` and `addr + 1` mod 65536, low byte read first (R5, R53, R54). -/
def State.memRead16 (s : State) (addr : Word) : Except Fault Word := do
  let lo ← s.memRead addr
  let hi ← s.memRead (addr + 1)
  pure (wordOf hi lo)

/-- `MemWrite(addr, 1, v)`: the same decode in the same order (R42, R43). -/
def State.memWrite (s : State) (addr : Word) (v : Byte) : Except Fault State :=
  if inWindow s.cfg addr then .ok (s.periphWrite (windowOffset s.cfg addr) v)
  else if addr.toNat < s.cfg.memSize then .ok { s with mem := Memory.put s.mem addr.toNat v }
  else .error (.boundsError addr)

/-! ## Instruction bodies

A body is the pseudocode of a rule: a sequence of reads, writes and updates that ends at the first fault and keeps what was
done before it (R272). -/

/-- A piece of an instruction's pseudocode. -/
abbrev Op (α : Type) := EStateM Fault State α

/-- The state at this point of the pseudocode. -/
def getState : Op State := fun s => .ok s s

/-- Registers and flags written. -/
def update (f : State → State) : Op Unit := fun s => .ok () (f s)

/-- A value read through the bus. -/
def readBy {α : Type} (f : State → Except Fault α) : Op α := fun s =>
  match f s with
  | .ok v => .ok v s
  | .error e => .error e s

/-- A byte written through the bus; a write out of bounds does not happen (R272). -/
def busWrite (addr : Word) (v : Byte) : Op Unit := fun s =>
  match s.memWrite addr v with
  | .ok s' => .ok () s'
  | .error e => .error e s

/-! ## Registers -/

/-- Z and N of P from a byte (R146). -/
def State.setZN (s : State) (v : Byte) : State := { s with p := Machine.setZN s.p v }

/-- A written, Z and N from it. -/
def State.loadA (s : State) (v : Byte) : State := { s with a := v, p := Machine.setZN s.p v }

/-- X written, Z and N from it. -/
def State.loadX (s : State) (v : Byte) : State := { s with x := v, p := Machine.setZN s.p v }

/-- Y written, Z and N from it. -/
def State.loadY (s : State) (v : Byte) : State := { s with y := v, p := Machine.setZN s.p v }

/-- One flag written. -/
def State.putFlag (s : State) (f : Flag) (b : Bool) : State := { s with p := setFlag s.p f b }

/-! ## The stack -/

/-- The address of a stack offset: page 0x01 (R144, D14). -/
def stackAddr (sp : Byte) : Word := wordOf 0x01 sp

/-- `Push(b)`: write at the stack pointer, then decrement it; it wraps silently (R144, R11). -/
def push (b : Byte) : Op Unit := do
  let s ← getState
  busWrite (stackAddr s.sp) b
  update fun s => { s with sp := s.sp - 1 }

/-- `Pop()`: increment the stack pointer, then read (R145). -/
def pop : Op Byte := do
  update fun s => { s with sp := s.sp + 1 }
  readBy fun s => s.memRead (stackAddr s.sp)

/-- A word pushed high byte first (R231, R258, D14). -/
def pushWord (w : Word) : Op Unit := do
  push (hiByte w)
  push (loByte w)

/-- A word popped low byte first (R232, R259). -/
def popWord : Op Word := do
  let lo ← pop
  let hi ← pop
  pure (wordOf hi lo)

/-! ## Taking the software interrupt and returning from it -/

/-- The address of the software-interrupt vector (R258, R277). -/
def interruptVector : Word := 0xFFFE

/-- Trap entry, the only one the machine has (R277, R258): the return address `pc0` + 2 is pushed, then P with both break
bits forced to 1, then I is set, then PC is loaded from the vector. P's own break bits and D are left alone. -/
def takeSoftwareInterrupt (pc0 : Word) : Op Unit := do
  pushWord (pc0 + 2)
  let s ← getState
  push (forcedBreak s.p)
  update fun s => s.putFlag .i true
  let target ← readBy fun s => s.memRead16 interruptVector
  update fun s => { s with pc := target }

/-- Trap return (R278, R259): P is popped whole, then PC, which is used unmodified. -/
def returnFromInterrupt : Op Unit := do
  let p ← pop
  update fun s => { s with p := p }
  let target ← popWord
  update fun s => { s with pc := target }

/-! ## The frame of an instruction -/

/-- The execution of a decoded instruction of the given length and base cycle count (R103, R104): PC is advanced by the
length, the body runs and answers the extra cycles, and `remaining_cycles` becomes base - 1 + extra. A fault in the body is
latched with what was done before it, and `remaining_cycles` keeps its value (R272). -/
def runInstr (len base : Nat) (body : Op Nat) (s : State) : Host.Outcome State Fault Refusal :=
  match body { s with pc := s.pc + BitVec.ofNat 16 len } with
  | .ok extra t => .next { t with remaining := base - 1 + extra }
  | .error f t => .next { t with fault := some f }

end Sys2Proof.Machine
end

