-- ==== Sys2Proof/Machine/Operands.lean ====
section
/-! DEFINITION. Addressing modes and operand access (spec/41_addressing_modes.md R130 to R143, R147 to R149; the page-cross
and branch penalties of spec/40_execution_cycle.md R105, R106). -/

namespace Sys2Proof.Machine

/-- `zext_16(b)` (spec/00_scope.md R5). -/
def zext16 (b : Byte) : Word := b.setWidth 16

/-- `sext_16(b)` (R5). -/
def sext16 (b : Byte) : Word := b.signExtend 16

/-- `page(a)` (R5). -/
def page (w : Word) : Byte := hiByte w

/-- An effective address and whether the index carried it to another page than its base (R130, `crossed`). -/
structure EffAddr where
  addr : Word
  crossed : Bool
  deriving DecidableEq, Repr

/-- An address with no index carried over a page. -/
def plainAddr (addr : Word) : EffAddr := ⟨addr, false⟩

/-- `(base_addr + index) mod 65536`, crossed if that lies on another page than `base_addr` (R138, R139, R142). -/
def indexedAddr (base : Word) (index : Byte) : EffAddr :=
  let ea := base + zext16 index
  ⟨ea, page ea != page base⟩

/-- The effective address of a memory mode (R134 to R139, R141, R142). Pointers are read from two consecutive addresses mod
65536, also when the first is 0x00FF (D15). -/
def State.effAddr (s : State) : MemMode → Except Fault EffAddr
  | .zp a => .ok (plainAddr (zext16 a))
  | .zpx a => .ok (plainAddr (zext16 (a + s.x)))
  | .zpy a => .ok (plainAddr (zext16 (a + s.y)))
  | .abs w => .ok (plainAddr w)
  | .abx w => .ok (indexedAddr w s.x)
  | .aby w => .ok (indexedAddr w s.y)
  | .izx a => do
    let ptr ← s.memRead16 (zext16 (a + s.x))
    pure (plainAddr ptr)
  | .izy a => do
    let base ← s.memRead16 (zext16 a)
    pure (indexedAddr base s.y)

/-- The page-cross penalty: one cycle, only for a page-cross-sensitive opcode (R105). -/
def crossPenalty (sensitive crossed : Bool) : Nat := if sensitive && crossed then 1 else 0

/-- `LoadOperand()`: the operand byte of a read instruction and the extra cycles of reading it (R147). -/
def State.loadOperand (s : State) (sensitive : Bool) : Src → Except Fault (Byte × Nat)
  | .imm v => .ok (v, 0)
  | .mem m => do
    let ea ← s.effAddr m
    let v ← s.memRead ea.addr
    pure (v, crossPenalty sensitive ea.crossed)

/-- A read instruction: one operand byte, then registers and flags (R147). -/
def readInstr (src : Src) (sensitive : Bool) (f : Byte → State → State) : Op Nat := do
  let (m, extra) ← readBy fun s => s.loadOperand sensitive src
  update (f m)
  pure extra

/-- `StoreOperand(v)`: one write at the effective address, no read of it, no penalty (R148). -/
def storeInstr (m : MemMode) (v : State → Byte) : Op Nat := do
  let s ← getState
  let ea ← readBy fun s => s.effAddr m
  busWrite ea.addr (v s)
  pure 0

/-- `Modify(f)`: the operand replaced by `f` of it, one read and then one write at the same address, or A (R149). Answers
the old value. -/
def modifyOperand (d : Dst) (f : Byte → Byte) : Op Byte :=
  match d with
  | .acc => do
    let s ← getState
    update fun t => { t with a := f s.a }
    pure s.a
  | .mem m => do
    let ea ← readBy fun s => s.effAddr m
    let old ← readBy fun s => s.memRead ea.addr
    busWrite ea.addr (f old)
    pure old

/-- A read-modify-write instruction: the operand replaced, then flags from its old value (R149). -/
def rmwInstr (d : Dst) (f : Byte → Byte) (flags : Byte → State → State) : Op Nat := do
  let old ← modifyOperand d f
  update (flags old)
  pure 0

/-- An instruction that only writes registers and flags. -/
def registerInstr (f : State → State) : Op Nat := do
  update f
  pure 0

/-- The target of a branch at `pc0`: relative to the address after the two-byte branch (R143). -/
def branchTarget (pc0 : Word) (disp : Byte) : Word := pc0 + 2 + sext16 disp

/-- The penalty of a taken branch: one cycle, two if the target is on another page than the branch's opcode (R106, D16). -/
def branchPenalty (pc0 target : Word) : Nat := if page target = page pc0 then 1 else 2

/-- The common body of the eight branches (R233). -/
def branchIf (cond : State → Bool) (pc0 : Word) (disp : Byte) : Op Nat := do
  let s ← getState
  if cond s then
    let target := branchTarget pc0 disp
    update fun t => { t with pc := target }
    pure (branchPenalty pc0 target)
  else
    pure 0

end Sys2Proof.Machine
end

