-- ==== Sys2Proof/Machine/Arith.lean ====
section
/-! DEFINITION. The meanings of ADC and SBC (spec/44_logic_arithmetic.md R190, R196, R197). -/

namespace Sys2Proof.Machine

/-- `AddWithCarry(m)` (R190). -/
def State.addWithCarry (s : State) (m : Byte) : State :=
  { s with a := adcResult s.a m (getFlag s.p .c), p := adcFlags s.cfg.vRule s.p s.a m }

/-- `m <- LoadOperand() ; AddWithCarry(m)` (R196). -/
def opAdc (src : Src) (sensitive : Bool) : Op Nat := readInstr src sensitive fun m s => s.addWithCarry m

/-- `m <- LoadOperand() ; AddWithCarry(m ^ 0xFF)` (R197, D26). -/
def opSbc (src : Src) (sensitive : Bool) : Op Nat :=
  readInstr src sensitive fun m s => s.addWithCarry (m ^^^ 0xFF#8)

/-- ADC, immediate: opcode 0x69, 2 bytes, base 2 cycles (R196, R133, R84). -/
def execAdcImm (v : Byte) (s : State) : Host.Outcome State Fault Refusal :=
  runInstr 2 2 (opAdc (.imm v) false) s

/-- ADC, zero page: opcode 0x65, 2 bytes, base 3 cycles (R196, R134, R84). -/
def execAdcZp (zp : Byte) (s : State) : Host.Outcome State Fault Refusal :=
  runInstr 2 3 (opAdc (.mem (.zp zp)) false) s

/-- ADC, zero page,X: opcode 0x75, 2 bytes, base 4 cycles (R196, R135, R84). -/
def execAdcZpx (zp : Byte) (s : State) : Host.Outcome State Fault Refusal :=
  runInstr 2 4 (opAdc (.mem (.zpx zp)) false) s

/-- ADC, absolute: opcode 0x6D, 3 bytes, base 4 cycles (R196, R137, R84). -/
def execAdcAbs (addr : Word) (s : State) : Host.Outcome State Fault Refusal :=
  runInstr 3 4 (opAdc (.mem (.abs addr)) false) s

/-- ADC, absolute,X: opcode 0x7D, 3 bytes, base 4 cycles, page-cross sensitive (R196, R138, R84). -/
def execAdcAbx (addr : Word) (s : State) : Host.Outcome State Fault Refusal :=
  runInstr 3 4 (opAdc (.mem (.abx addr)) true) s

/-- ADC, absolute,Y: opcode 0x79, 3 bytes, base 4 cycles, page-cross sensitive (R196, R139, R84). -/
def execAdcAby (addr : Word) (s : State) : Host.Outcome State Fault Refusal :=
  runInstr 3 4 (opAdc (.mem (.aby addr)) true) s

/-- ADC, (zero page,X): opcode 0x61, 2 bytes, base 6 cycles (R196, R141, R84). -/
def execAdcIzx (zp : Byte) (s : State) : Host.Outcome State Fault Refusal :=
  runInstr 2 6 (opAdc (.mem (.izx zp)) false) s

/-- ADC, (zero page),Y: opcode 0x71, 2 bytes, base 5 cycles, page-cross sensitive (R196, R142, R84). -/
def execAdcIzy (zp : Byte) (s : State) : Host.Outcome State Fault Refusal :=
  runInstr 2 5 (opAdc (.mem (.izy zp)) true) s

/-- SBC, immediate: opcode 0xE9, 2 bytes, base 2 cycles (R197, R133, R84). -/
def execSbcImm (v : Byte) (s : State) : Host.Outcome State Fault Refusal :=
  runInstr 2 2 (opSbc (.imm v) false) s

/-- SBC, zero page: opcode 0xE5, 2 bytes, base 3 cycles (R197, R134, R84). -/
def execSbcZp (zp : Byte) (s : State) : Host.Outcome State Fault Refusal :=
  runInstr 2 3 (opSbc (.mem (.zp zp)) false) s

/-- SBC, zero page,X: opcode 0xF5, 2 bytes, base 4 cycles (R197, R135, R84). -/
def execSbcZpx (zp : Byte) (s : State) : Host.Outcome State Fault Refusal :=
  runInstr 2 4 (opSbc (.mem (.zpx zp)) false) s

/-- SBC, absolute: opcode 0xED, 3 bytes, base 4 cycles (R197, R137, R84). -/
def execSbcAbs (addr : Word) (s : State) : Host.Outcome State Fault Refusal :=
  runInstr 3 4 (opSbc (.mem (.abs addr)) false) s

/-- SBC, absolute,X: opcode 0xFD, 3 bytes, base 4 cycles, page-cross sensitive (R197, R138, R84). -/
def execSbcAbx (addr : Word) (s : State) : Host.Outcome State Fault Refusal :=
  runInstr 3 4 (opSbc (.mem (.abx addr)) true) s

/-- SBC, absolute,Y: opcode 0xF9, 3 bytes, base 4 cycles, page-cross sensitive (R197, R139, R84). -/
def execSbcAby (addr : Word) (s : State) : Host.Outcome State Fault Refusal :=
  runInstr 3 4 (opSbc (.mem (.aby addr)) true) s

/-- SBC, (zero page,X): opcode 0xE1, 2 bytes, base 6 cycles (R197, R141, R84). -/
def execSbcIzx (zp : Byte) (s : State) : Host.Outcome State Fault Refusal :=
  runInstr 2 6 (opSbc (.mem (.izx zp)) false) s

/-- SBC, (zero page),Y: opcode 0xF1, 2 bytes, base 5 cycles, page-cross sensitive (R197, R142, R84). -/
def execSbcIzy (zp : Byte) (s : State) : Host.Outcome State Fault Refusal :=
  runInstr 2 5 (opSbc (.mem (.izy zp)) true) s

end Sys2Proof.Machine
end

