-- ==== Sys2Proof/Machine/Branch.lean ====
section
/-! DEFINITION. The meanings of the eight conditional branches (spec/46_control_flow.md R233 to R241). -/

namespace Sys2Proof.Machine

/-- Taken if N = 0 (R234). -/
def opBpl (pc0 : Word) (disp : Byte) : Op Nat := branchIf (fun s => !getFlag s.p .n) pc0 disp

/-- Taken if N = 1 (R235). -/
def opBmi (pc0 : Word) (disp : Byte) : Op Nat := branchIf (fun s => getFlag s.p .n) pc0 disp

/-- Taken if V = 0 (R236). -/
def opBvc (pc0 : Word) (disp : Byte) : Op Nat := branchIf (fun s => !getFlag s.p .v) pc0 disp

/-- Taken if V = 1 (R237). -/
def opBvs (pc0 : Word) (disp : Byte) : Op Nat := branchIf (fun s => getFlag s.p .v) pc0 disp

/-- Taken if C = 0 (R238). -/
def opBcc (pc0 : Word) (disp : Byte) : Op Nat := branchIf (fun s => !getFlag s.p .c) pc0 disp

/-- Taken if C = 1 (R239). -/
def opBcs (pc0 : Word) (disp : Byte) : Op Nat := branchIf (fun s => getFlag s.p .c) pc0 disp

/-- Taken if Z = 0 (R240). -/
def opBne (pc0 : Word) (disp : Byte) : Op Nat := branchIf (fun s => !getFlag s.p .z) pc0 disp

/-- Taken if Z = 1 (R241). -/
def opBeq (pc0 : Word) (disp : Byte) : Op Nat := branchIf (fun s => getFlag s.p .z) pc0 disp

/-- BPL, relative: opcode 0x10, 2 bytes, base 2 cycles (R234, R143, R84). -/
def execBpl (disp : Byte) (s : State) : Host.Outcome State Fault Refusal :=
  runInstr 2 2 (opBpl s.pc disp) s

/-- BMI, relative: opcode 0x30, 2 bytes, base 2 cycles (R235, R143, R84). -/
def execBmi (disp : Byte) (s : State) : Host.Outcome State Fault Refusal :=
  runInstr 2 2 (opBmi s.pc disp) s

/-- BVC, relative: opcode 0x50, 2 bytes, base 2 cycles (R236, R143, R84). -/
def execBvc (disp : Byte) (s : State) : Host.Outcome State Fault Refusal :=
  runInstr 2 2 (opBvc s.pc disp) s

/-- BVS, relative: opcode 0x70, 2 bytes, base 2 cycles (R237, R143, R84). -/
def execBvs (disp : Byte) (s : State) : Host.Outcome State Fault Refusal :=
  runInstr 2 2 (opBvs s.pc disp) s

/-- BCC, relative: opcode 0x90, 2 bytes, base 2 cycles (R238, R143, R84). -/
def execBcc (disp : Byte) (s : State) : Host.Outcome State Fault Refusal :=
  runInstr 2 2 (opBcc s.pc disp) s

/-- BCS, relative: opcode 0xB0, 2 bytes, base 2 cycles (R239, R143, R84). -/
def execBcs (disp : Byte) (s : State) : Host.Outcome State Fault Refusal :=
  runInstr 2 2 (opBcs s.pc disp) s

/-- BNE, relative: opcode 0xD0, 2 bytes, base 2 cycles (R240, R143, R84). -/
def execBne (disp : Byte) (s : State) : Host.Outcome State Fault Refusal :=
  runInstr 2 2 (opBne s.pc disp) s

/-- BEQ, relative: opcode 0xF0, 2 bytes, base 2 cycles (R241, R143, R84). -/
def execBeq (disp : Byte) (s : State) : Host.Outcome State Fault Refusal :=
  runInstr 2 2 (opBeq s.pc disp) s

end Sys2Proof.Machine
end

