-- ==== Sys2Proof/Machine/Compare.lean ====
section
/-! DEFINITION. The meanings of CMP, CPX, CPY (spec/44_logic_arithmetic.md R191, R198 to R200). -/

namespace Sys2Proof.Machine

/-- `Compare(A, m)` (R198). -/
def opCmp (src : Src) (sensitive : Bool) : Op Nat :=
  readInstr src sensitive fun m s => { s with p := compareFlags s.p s.a m }

/-- `Compare(X, m)` (R199). -/
def opCpx (src : Src) (sensitive : Bool) : Op Nat :=
  readInstr src sensitive fun m s => { s with p := compareFlags s.p s.x m }

/-- `Compare(Y, m)` (R200). -/
def opCpy (src : Src) (sensitive : Bool) : Op Nat :=
  readInstr src sensitive fun m s => { s with p := compareFlags s.p s.y m }

/-- CMP, immediate: opcode 0xC9, 2 bytes, base 2 cycles (R198, R133, R84). -/
def execCmpImm (v : Byte) (s : State) : Host.Outcome State Fault Refusal :=
  runInstr 2 2 (opCmp (.imm v) false) s

/-- CMP, zero page: opcode 0xC5, 2 bytes, base 3 cycles (R198, R134, R84). -/
def execCmpZp (zp : Byte) (s : State) : Host.Outcome State Fault Refusal :=
  runInstr 2 3 (opCmp (.mem (.zp zp)) false) s

/-- CMP, zero page,X: opcode 0xD5, 2 bytes, base 4 cycles (R198, R135, R84). -/
def execCmpZpx (zp : Byte) (s : State) : Host.Outcome State Fault Refusal :=
  runInstr 2 4 (opCmp (.mem (.zpx zp)) false) s

/-- CMP, absolute: opcode 0xCD, 3 bytes, base 4 cycles (R198, R137, R84). -/
def execCmpAbs (addr : Word) (s : State) : Host.Outcome State Fault Refusal :=
  runInstr 3 4 (opCmp (.mem (.abs addr)) false) s

/-- CMP, absolute,X: opcode 0xDD, 3 bytes, base 4 cycles, page-cross sensitive (R198, R138, R84). -/
def execCmpAbx (addr : Word) (s : State) : Host.Outcome State Fault Refusal :=
  runInstr 3 4 (opCmp (.mem (.abx addr)) true) s

/-- CMP, absolute,Y: opcode 0xD9, 3 bytes, base 4 cycles, page-cross sensitive (R198, R139, R84). -/
def execCmpAby (addr : Word) (s : State) : Host.Outcome State Fault Refusal :=
  runInstr 3 4 (opCmp (.mem (.aby addr)) true) s

/-- CMP, (zero page,X): opcode 0xC1, 2 bytes, base 6 cycles (R198, R141, R84). -/
def execCmpIzx (zp : Byte) (s : State) : Host.Outcome State Fault Refusal :=
  runInstr 2 6 (opCmp (.mem (.izx zp)) false) s

/-- CMP, (zero page),Y: opcode 0xD1, 2 bytes, base 5 cycles, page-cross sensitive (R198, R142, R84). -/
def execCmpIzy (zp : Byte) (s : State) : Host.Outcome State Fault Refusal :=
  runInstr 2 5 (opCmp (.mem (.izy zp)) true) s

/-- CPX, immediate: opcode 0xE0, 2 bytes, base 2 cycles (R199, R133, R84). -/
def execCpxImm (v : Byte) (s : State) : Host.Outcome State Fault Refusal :=
  runInstr 2 2 (opCpx (.imm v) false) s

/-- CPX, zero page: opcode 0xE4, 2 bytes, base 3 cycles (R199, R134, R84). -/
def execCpxZp (zp : Byte) (s : State) : Host.Outcome State Fault Refusal :=
  runInstr 2 3 (opCpx (.mem (.zp zp)) false) s

/-- CPX, absolute: opcode 0xEC, 3 bytes, base 4 cycles (R199, R137, R84). -/
def execCpxAbs (addr : Word) (s : State) : Host.Outcome State Fault Refusal :=
  runInstr 3 4 (opCpx (.mem (.abs addr)) false) s

/-- CPY, immediate: opcode 0xC0, 2 bytes, base 2 cycles (R200, R133, R84). -/
def execCpyImm (v : Byte) (s : State) : Host.Outcome State Fault Refusal :=
  runInstr 2 2 (opCpy (.imm v) false) s

/-- CPY, zero page: opcode 0xC4, 2 bytes, base 3 cycles (R200, R134, R84). -/
def execCpyZp (zp : Byte) (s : State) : Host.Outcome State Fault Refusal :=
  runInstr 2 3 (opCpy (.mem (.zp zp)) false) s

/-- CPY, absolute: opcode 0xCC, 3 bytes, base 4 cycles (R200, R137, R84). -/
def execCpyAbs (addr : Word) (s : State) : Host.Outcome State Fault Refusal :=
  runInstr 3 4 (opCpy (.mem (.abs addr)) false) s

end Sys2Proof.Machine
end

