-- ==== Sys2Proof/Machine/Control.lean ====
section
/-! DEFINITION. The meanings of JMP, JSR, RTS (spec/46_control_flow.md R230 to R232). -/

namespace Sys2Proof.Machine

/-- `pc <- {op2, op1}` (R230). -/
def opJmpAbs (addr : Word) : Op Nat := registerInstr fun s => { s with pc := addr }

/-- `pc <- MemRead({op2, op1}, 2)`, without the page-wrap defect (R230, R140, D3). -/
def opJmpInd (ptr : Word) : Op Nat := do
  let target ← readBy fun s => s.memRead16 ptr
  update fun s => { s with pc := target }
  pure 0

/-- The address of the last byte of the call is pushed, high byte first, then PC is the target (R231). -/
def opJsr (pc0 addr : Word) : Op Nat := do
  pushWord (pc0 + 2)
  update fun s => { s with pc := addr }
  pure 0

/-- The popped address plus 1 (R232). -/
def opRts : Op Nat := do
  let ret ← popWord
  update fun s => { s with pc := ret + 1 }
  pure 0

/-- JMP, absolute: opcode 0x4C, 3 bytes, base 3 cycles (R230, R137, R84). -/
def execJmpAbs (addr : Word) (s : State) : Host.Outcome State Fault Refusal :=
  runInstr 3 3 (opJmpAbs addr) s

/-- JMP, indirect: opcode 0x6C, 3 bytes, base 5 cycles (R230, R140, R84). -/
def execJmpInd (ptr : Word) (s : State) : Host.Outcome State Fault Refusal :=
  runInstr 3 5 (opJmpInd ptr) s

/-- JSR, absolute: opcode 0x20, 3 bytes, base 6 cycles (R231, R137, R84). -/
def execJsr (addr : Word) (s : State) : Host.Outcome State Fault Refusal :=
  runInstr 3 6 (opJsr s.pc addr) s

/-- RTS, implied: opcode 0x60, 1 byte, base 6 cycles (R232, R131, R84). -/
def execRts (s : State) : Host.Outcome State Fault Refusal :=
  runInstr 1 6 opRts s

end Sys2Proof.Machine
end

