-- ==== Sys2Proof/Machine/FlagOps.lean ====
section
/-! DEFINITION. The meanings of the seven flag instructions (spec/47_flags_system.md R250 to R256). -/

namespace Sys2Proof.Machine

/-- `P.C <- 0` (R250). -/
def opClc : Op Nat := registerInstr fun s => s.putFlag .c false

/-- `P.C <- 1` (R251). -/
def opSec : Op Nat := registerInstr fun s => s.putFlag .c true

/-- `P.I <- 0` (R252). -/
def opCli : Op Nat := registerInstr fun s => s.putFlag .i false

/-- `P.I <- 1` (R253). -/
def opSei : Op Nat := registerInstr fun s => s.putFlag .i true

/-- `P.D <- 0` (R254). -/
def opCld : Op Nat := registerInstr fun s => s.putFlag .d false

/-- `P.D <- 1` (R255). -/
def opSed : Op Nat := registerInstr fun s => s.putFlag .d true

/-- `P.V <- 0` (R256). -/
def opClv : Op Nat := registerInstr fun s => s.putFlag .v false

/-- CLC, implied: opcode 0x18, 1 byte, base 2 cycles (R250, R131, R84). -/
def execClc (s : State) : Host.Outcome State Fault Refusal :=
  runInstr 1 2 opClc s

/-- SEC, implied: opcode 0x38, 1 byte, base 2 cycles (R251, R131, R84). -/
def execSec (s : State) : Host.Outcome State Fault Refusal :=
  runInstr 1 2 opSec s

/-- CLI, implied: opcode 0x58, 1 byte, base 2 cycles (R252, R131, R84). -/
def execCli (s : State) : Host.Outcome State Fault Refusal :=
  runInstr 1 2 opCli s

/-- SEI, implied: opcode 0x78, 1 byte, base 2 cycles (R253, R131, R84). -/
def execSei (s : State) : Host.Outcome State Fault Refusal :=
  runInstr 1 2 opSei s

/-- CLD, implied: opcode 0xD8, 1 byte, base 2 cycles (R254, R131, R84). -/
def execCld (s : State) : Host.Outcome State Fault Refusal :=
  runInstr 1 2 opCld s

/-- SED, implied: opcode 0xF8, 1 byte, base 2 cycles (R255, R131, R84). -/
def execSed (s : State) : Host.Outcome State Fault Refusal :=
  runInstr 1 2 opSed s

/-- CLV, implied: opcode 0xB8, 1 byte, base 2 cycles (R256, R131, R84). -/
def execClv (s : State) : Host.Outcome State Fault Refusal :=
  runInstr 1 2 opClv s

end Sys2Proof.Machine
end

