-- ==== Sys2Proof/Machine/IncDec.lean ====
section
/-! DEFINITION. The meanings of the increments and decrements (spec/45_incdec_shift.md R210 to R215). -/

namespace Sys2Proof.Machine

/-- `Modify(f) with f(old) = (old + 1) mod 256 ; SetZN(f(old))` (R210). -/
def opInc (m : MemMode) : Op Nat := rmwInstr (.mem m) (fun old => old + 1) fun old s => s.setZN (old + 1)

/-- `Modify(f) with f(old) = (old - 1) mod 256 ; SetZN(f(old))` (R211). -/
def opDec (m : MemMode) : Op Nat := rmwInstr (.mem m) (fun old => old - 1) fun old s => s.setZN (old - 1)

/-- `X <- (X + 1) mod 256 ; SetZN(X)` (R212). -/
def opInx : Op Nat := registerInstr fun s => s.loadX (s.x + 1)

/-- `Y <- (Y + 1) mod 256 ; SetZN(Y)` (R213). -/
def opIny : Op Nat := registerInstr fun s => s.loadY (s.y + 1)

/-- `X <- (X - 1) mod 256 ; SetZN(X)` (R214). -/
def opDex : Op Nat := registerInstr fun s => s.loadX (s.x - 1)

/-- `Y <- (Y - 1) mod 256 ; SetZN(Y)` (R215). -/
def opDey : Op Nat := registerInstr fun s => s.loadY (s.y - 1)

/-- INC, zero page: opcode 0xE6, 2 bytes, base 5 cycles (R210, R134, R84). -/
def execIncZp (zp : Byte) (s : State) : Host.Outcome State Fault Refusal :=
  runInstr 2 5 (opInc (.zp zp)) s

/-- INC, zero page,X: opcode 0xF6, 2 bytes, base 6 cycles (R210, R135, R84). -/
def execIncZpx (zp : Byte) (s : State) : Host.Outcome State Fault Refusal :=
  runInstr 2 6 (opInc (.zpx zp)) s

/-- INC, absolute: opcode 0xEE, 3 bytes, base 6 cycles (R210, R137, R84). -/
def execIncAbs (addr : Word) (s : State) : Host.Outcome State Fault Refusal :=
  runInstr 3 6 (opInc (.abs addr)) s

/-- INC, absolute,X: opcode 0xFE, 3 bytes, base 7 cycles (R210, R138, R84). -/
def execIncAbx (addr : Word) (s : State) : Host.Outcome State Fault Refusal :=
  runInstr 3 7 (opInc (.abx addr)) s

/-- DEC, zero page: opcode 0xC6, 2 bytes, base 5 cycles (R211, R134, R84). -/
def execDecZp (zp : Byte) (s : State) : Host.Outcome State Fault Refusal :=
  runInstr 2 5 (opDec (.zp zp)) s

/-- DEC, zero page,X: opcode 0xD6, 2 bytes, base 6 cycles (R211, R135, R84). -/
def execDecZpx (zp : Byte) (s : State) : Host.Outcome State Fault Refusal :=
  runInstr 2 6 (opDec (.zpx zp)) s

/-- DEC, absolute: opcode 0xCE, 3 bytes, base 6 cycles (R211, R137, R84). -/
def execDecAbs (addr : Word) (s : State) : Host.Outcome State Fault Refusal :=
  runInstr 3 6 (opDec (.abs addr)) s

/-- DEC, absolute,X: opcode 0xDE, 3 bytes, base 7 cycles (R211, R138, R84). -/
def execDecAbx (addr : Word) (s : State) : Host.Outcome State Fault Refusal :=
  runInstr 3 7 (opDec (.abx addr)) s

/-- INX, implied: opcode 0xE8, 1 byte, base 2 cycles (R212, R131, R84). -/
def execInx (s : State) : Host.Outcome State Fault Refusal :=
  runInstr 1 2 opInx s

/-- INY, implied: opcode 0xC8, 1 byte, base 2 cycles (R213, R131, R84). -/
def execIny (s : State) : Host.Outcome State Fault Refusal :=
  runInstr 1 2 opIny s

/-- DEX, implied: opcode 0xCA, 1 byte, base 2 cycles (R214, R131, R84). -/
def execDex (s : State) : Host.Outcome State Fault Refusal :=
  runInstr 1 2 opDex s

/-- DEY, implied: opcode 0x88, 1 byte, base 2 cycles (R215, R131, R84). -/
def execDey (s : State) : Host.Outcome State Fault Refusal :=
  runInstr 1 2 opDey s

end Sys2Proof.Machine
end

