-- ==== Sys2Proof/Machine/Load.lean ====
section
/-! DEFINITION. The meanings of the loads LDA, LDX, LDY (spec/42_load_store_transfer.md R160 to R162). -/

namespace Sys2Proof.Machine

/-- `m <- LoadOperand() ; A <- m ; SetZN(m)` (R160). -/
def opLda (src : Src) (sensitive : Bool) : Op Nat := readInstr src sensitive fun m s => s.loadA m

/-- `m <- LoadOperand() ; X <- m ; SetZN(m)` (R161). -/
def opLdx (src : Src) (sensitive : Bool) : Op Nat := readInstr src sensitive fun m s => s.loadX m

/-- `m <- LoadOperand() ; Y <- m ; SetZN(m)` (R162). -/
def opLdy (src : Src) (sensitive : Bool) : Op Nat := readInstr src sensitive fun m s => s.loadY m

/-- LDA, immediate: opcode 0xA9, 2 bytes, base 2 cycles (R160, R133, R84). -/
def execLdaImm (v : Byte) (s : State) : Host.Outcome State Fault Refusal :=
  runInstr 2 2 (opLda (.imm v) false) s

/-- LDA, zero page: opcode 0xA5, 2 bytes, base 3 cycles (R160, R134, R84). -/
def execLdaZp (zp : Byte) (s : State) : Host.Outcome State Fault Refusal :=
  runInstr 2 3 (opLda (.mem (.zp zp)) false) s

/-- LDA, zero page,X: opcode 0xB5, 2 bytes, base 4 cycles (R160, R135, R84). -/
def execLdaZpx (zp : Byte) (s : State) : Host.Outcome State Fault Refusal :=
  runInstr 2 4 (opLda (.mem (.zpx zp)) false) s

/-- LDA, absolute: opcode 0xAD, 3 bytes, base 4 cycles (R160, R137, R84). -/
def execLdaAbs (addr : Word) (s : State) : Host.Outcome State Fault Refusal :=
  runInstr 3 4 (opLda (.mem (.abs addr)) false) s

/-- LDA, absolute,X: opcode 0xBD, 3 bytes, base 4 cycles, page-cross sensitive (R160, R138, R84). -/
def execLdaAbx (addr : Word) (s : State) : Host.Outcome State Fault Refusal :=
  runInstr 3 4 (opLda (.mem (.abx addr)) true) s

/-- LDA, absolute,Y: opcode 0xB9, 3 bytes, base 4 cycles, page-cross sensitive (R160, R139, R84). -/
def execLdaAby (addr : Word) (s : State) : Host.Outcome State Fault Refusal :=
  runInstr 3 4 (opLda (.mem (.aby addr)) true) s

/-- LDA, (zero page,X): opcode 0xA1, 2 bytes, base 6 cycles (R160, R141, R84). -/
def execLdaIzx (zp : Byte) (s : State) : Host.Outcome State Fault Refusal :=
  runInstr 2 6 (opLda (.mem (.izx zp)) false) s

/-- LDA, (zero page),Y: opcode 0xB1, 2 bytes, base 5 cycles, page-cross sensitive (R160, R142, R84). -/
def execLdaIzy (zp : Byte) (s : State) : Host.Outcome State Fault Refusal :=
  runInstr 2 5 (opLda (.mem (.izy zp)) true) s

/-- LDX, immediate: opcode 0xA2, 2 bytes, base 2 cycles (R161, R133, R84). -/
def execLdxImm (v : Byte) (s : State) : Host.Outcome State Fault Refusal :=
  runInstr 2 2 (opLdx (.imm v) false) s

/-- LDX, zero page: opcode 0xA6, 2 bytes, base 3 cycles (R161, R134, R84). -/
def execLdxZp (zp : Byte) (s : State) : Host.Outcome State Fault Refusal :=
  runInstr 2 3 (opLdx (.mem (.zp zp)) false) s

/-- LDX, zero page,Y: opcode 0xB6, 2 bytes, base 4 cycles (R161, R136, R84). -/
def execLdxZpy (zp : Byte) (s : State) : Host.Outcome State Fault Refusal :=
  runInstr 2 4 (opLdx (.mem (.zpy zp)) false) s

/-- LDX, absolute: opcode 0xAE, 3 bytes, base 4 cycles (R161, R137, R84). -/
def execLdxAbs (addr : Word) (s : State) : Host.Outcome State Fault Refusal :=
  runInstr 3 4 (opLdx (.mem (.abs addr)) false) s

/-- LDX, absolute,Y: opcode 0xBE, 3 bytes, base 4 cycles, page-cross sensitive (R161, R139, R84). -/
def execLdxAby (addr : Word) (s : State) : Host.Outcome State Fault Refusal :=
  runInstr 3 4 (opLdx (.mem (.aby addr)) true) s

/-- LDY, immediate: opcode 0xA0, 2 bytes, base 2 cycles (R162, R133, R84). -/
def execLdyImm (v : Byte) (s : State) : Host.Outcome State Fault Refusal :=
  runInstr 2 2 (opLdy (.imm v) false) s

/-- LDY, zero page: opcode 0xA4, 2 bytes, base 3 cycles (R162, R134, R84). -/
def execLdyZp (zp : Byte) (s : State) : Host.Outcome State Fault Refusal :=
  runInstr 2 3 (opLdy (.mem (.zp zp)) false) s

/-- LDY, zero page,X: opcode 0xB4, 2 bytes, base 4 cycles (R162, R135, R84). -/
def execLdyZpx (zp : Byte) (s : State) : Host.Outcome State Fault Refusal :=
  runInstr 2 4 (opLdy (.mem (.zpx zp)) false) s

/-- LDY, absolute: opcode 0xAC, 3 bytes, base 4 cycles (R162, R137, R84). -/
def execLdyAbs (addr : Word) (s : State) : Host.Outcome State Fault Refusal :=
  runInstr 3 4 (opLdy (.mem (.abs addr)) false) s

/-- LDY, absolute,X: opcode 0xBC, 3 bytes, base 4 cycles, page-cross sensitive (R162, R138, R84). -/
def execLdyAbx (addr : Word) (s : State) : Host.Outcome State Fault Refusal :=
  runInstr 3 4 (opLdy (.mem (.abx addr)) true) s

end Sys2Proof.Machine
end

