-- ==== Sys2Proof/Machine/Logic.lean ====
section
/-! DEFINITION. The meanings of the logic instructions ORA, AND, EOR, BIT (spec/44_logic_arithmetic.md R192 to R195). -/

namespace Sys2Proof.Machine

/-- `m <- LoadOperand() ; A <- A | m ; SetZN(A)` (R192). -/
def opOra (src : Src) (sensitive : Bool) : Op Nat := readInstr src sensitive fun m s => s.loadA (s.a ||| m)

/-- `m <- LoadOperand() ; A <- A & m ; SetZN(A)` (R193). -/
def opAnd (src : Src) (sensitive : Bool) : Op Nat := readInstr src sensitive fun m s => s.loadA (s.a &&& m)

/-- `m <- LoadOperand() ; A <- A ^ m ; SetZN(A)` (R194). -/
def opEor (src : Src) (sensitive : Bool) : Op Nat := readInstr src sensitive fun m s => s.loadA (s.a ^^^ m)

/-- Z from `A & m`, N and V from bits 7 and 6 of `m` (R195). -/
def opBit (src : Src) (sensitive : Bool) : Op Nat :=
  readInstr src sensitive fun m s => { s with p := bitFlags s.p s.a m }

/-- ORA, immediate: opcode 0x09, 2 bytes, base 2 cycles (R192, R133, R84). -/
def execOraImm (v : Byte) (s : State) : Host.Outcome State Fault Refusal :=
  runInstr 2 2 (opOra (.imm v) false) s

/-- ORA, zero page: opcode 0x05, 2 bytes, base 3 cycles (R192, R134, R84). -/
def execOraZp (zp : Byte) (s : State) : Host.Outcome State Fault Refusal :=
  runInstr 2 3 (opOra (.mem (.zp zp)) false) s

/-- ORA, zero page,X: opcode 0x15, 2 bytes, base 4 cycles (R192, R135, R84). -/
def execOraZpx (zp : Byte) (s : State) : Host.Outcome State Fault Refusal :=
  runInstr 2 4 (opOra (.mem (.zpx zp)) false) s

/-- ORA, absolute: opcode 0x0D, 3 bytes, base 4 cycles (R192, R137, R84). -/
def execOraAbs (addr : Word) (s : State) : Host.Outcome State Fault Refusal :=
  runInstr 3 4 (opOra (.mem (.abs addr)) false) s

/-- ORA, absolute,X: opcode 0x1D, 3 bytes, base 4 cycles, page-cross sensitive (R192, R138, R84). -/
def execOraAbx (addr : Word) (s : State) : Host.Outcome State Fault Refusal :=
  runInstr 3 4 (opOra (.mem (.abx addr)) true) s

/-- ORA, absolute,Y: opcode 0x19, 3 bytes, base 4 cycles, page-cross sensitive (R192, R139, R84). -/
def execOraAby (addr : Word) (s : State) : Host.Outcome State Fault Refusal :=
  runInstr 3 4 (opOra (.mem (.aby addr)) true) s

/-- ORA, (zero page,X): opcode 0x01, 2 bytes, base 6 cycles (R192, R141, R84). -/
def execOraIzx (zp : Byte) (s : State) : Host.Outcome State Fault Refusal :=
  runInstr 2 6 (opOra (.mem (.izx zp)) false) s

/-- ORA, (zero page),Y: opcode 0x11, 2 bytes, base 5 cycles, page-cross sensitive (R192, R142, R84). -/
def execOraIzy (zp : Byte) (s : State) : Host.Outcome State Fault Refusal :=
  runInstr 2 5 (opOra (.mem (.izy zp)) true) s

/-- AND, immediate: opcode 0x29, 2 bytes, base 2 cycles (R193, R133, R84). -/
def execAndImm (v : Byte) (s : State) : Host.Outcome State Fault Refusal :=
  runInstr 2 2 (opAnd (.imm v) false) s

/-- AND, zero page: opcode 0x25, 2 bytes, base 3 cycles (R193, R134, R84). -/
def execAndZp (zp : Byte) (s : State) : Host.Outcome State Fault Refusal :=
  runInstr 2 3 (opAnd (.mem (.zp zp)) false) s

/-- AND, zero page,X: opcode 0x35, 2 bytes, base 4 cycles (R193, R135, R84). -/
def execAndZpx (zp : Byte) (s : State) : Host.Outcome State Fault Refusal :=
  runInstr 2 4 (opAnd (.mem (.zpx zp)) false) s

/-- AND, absolute: opcode 0x2D, 3 bytes, base 4 cycles (R193, R137, R84). -/
def execAndAbs (addr : Word) (s : State) : Host.Outcome State Fault Refusal :=
  runInstr 3 4 (opAnd (.mem (.abs addr)) false) s

/-- AND, absolute,X: opcode 0x3D, 3 bytes, base 4 cycles, page-cross sensitive (R193, R138, R84). -/
def execAndAbx (addr : Word) (s : State) : Host.Outcome State Fault Refusal :=
  runInstr 3 4 (opAnd (.mem (.abx addr)) true) s

/-- AND, absolute,Y: opcode 0x39, 3 bytes, base 4 cycles, page-cross sensitive (R193, R139, R84). -/
def execAndAby (addr : Word) (s : State) : Host.Outcome State Fault Refusal :=
  runInstr 3 4 (opAnd (.mem (.aby addr)) true) s

/-- AND, (zero page,X): opcode 0x21, 2 bytes, base 6 cycles (R193, R141, R84). -/
def execAndIzx (zp : Byte) (s : State) : Host.Outcome State Fault Refusal :=
  runInstr 2 6 (opAnd (.mem (.izx zp)) false) s

/-- AND, (zero page),Y: opcode 0x31, 2 bytes, base 5 cycles, page-cross sensitive (R193, R142, R84). -/
def execAndIzy (zp : Byte) (s : State) : Host.Outcome State Fault Refusal :=
  runInstr 2 5 (opAnd (.mem (.izy zp)) true) s

/-- EOR, immediate: opcode 0x49, 2 bytes, base 2 cycles (R194, R133, R84). -/
def execEorImm (v : Byte) (s : State) : Host.Outcome State Fault Refusal :=
  runInstr 2 2 (opEor (.imm v) false) s

/-- EOR, zero page: opcode 0x45, 2 bytes, base 3 cycles (R194, R134, R84). -/
def execEorZp (zp : Byte) (s : State) : Host.Outcome State Fault Refusal :=
  runInstr 2 3 (opEor (.mem (.zp zp)) false) s

/-- EOR, zero page,X: opcode 0x55, 2 bytes, base 4 cycles (R194, R135, R84). -/
def execEorZpx (zp : Byte) (s : State) : Host.Outcome State Fault Refusal :=
  runInstr 2 4 (opEor (.mem (.zpx zp)) false) s

/-- EOR, absolute: opcode 0x4D, 3 bytes, base 4 cycles (R194, R137, R84). -/
def execEorAbs (addr : Word) (s : State) : Host.Outcome State Fault Refusal :=
  runInstr 3 4 (opEor (.mem (.abs addr)) false) s

/-- EOR, absolute,X: opcode 0x5D, 3 bytes, base 4 cycles, page-cross sensitive (R194, R138, R84). -/
def execEorAbx (addr : Word) (s : State) : Host.Outcome State Fault Refusal :=
  runInstr 3 4 (opEor (.mem (.abx addr)) true) s

/-- EOR, absolute,Y: opcode 0x59, 3 bytes, base 4 cycles, page-cross sensitive (R194, R139, R84). -/
def execEorAby (addr : Word) (s : State) : Host.Outcome State Fault Refusal :=
  runInstr 3 4 (opEor (.mem (.aby addr)) true) s

/-- EOR, (zero page,X): opcode 0x41, 2 bytes, base 6 cycles (R194, R141, R84). -/
def execEorIzx (zp : Byte) (s : State) : Host.Outcome State Fault Refusal :=
  runInstr 2 6 (opEor (.mem (.izx zp)) false) s

/-- EOR, (zero page),Y: opcode 0x51, 2 bytes, base 5 cycles, page-cross sensitive (R194, R142, R84). -/
def execEorIzy (zp : Byte) (s : State) : Host.Outcome State Fault Refusal :=
  runInstr 2 5 (opEor (.mem (.izy zp)) true) s

/-- BIT, zero page: opcode 0x24, 2 bytes, base 3 cycles (R195, R134, R84). -/
def execBitZp (zp : Byte) (s : State) : Host.Outcome State Fault Refusal :=
  runInstr 2 3 (opBit (.mem (.zp zp)) false) s

/-- BIT, absolute: opcode 0x2C, 3 bytes, base 4 cycles (R195, R137, R84). -/
def execBitAbs (addr : Word) (s : State) : Host.Outcome State Fault Refusal :=
  runInstr 3 4 (opBit (.mem (.abs addr)) false) s

end Sys2Proof.Machine
end

