-- ==== Sys2Proof/Machine/Shift.lean ====
section
/-! DEFINITION. The meanings of the shifts and rotates (spec/45_incdec_shift.md R216 to R219). -/

namespace Sys2Proof.Machine

/-- Shift left; old bit 7 becomes the carry (R216). -/
def opAsl (d : Dst) : Op Nat :=
  rmwInstr d aslByte fun old s => { s with p := shiftFlags s.p (aslByte old) (old.getLsbD 7) }

/-- Shift right; old bit 0 becomes the carry (R217). -/
def opLsr (d : Dst) : Op Nat :=
  rmwInstr d lsrByte fun old s => { s with p := shiftFlags s.p (lsrByte old) (old.getLsbD 0) }

/-- Rotate left through the carry read on entry; old bit 7 becomes the carry (R218). -/
def opRol (d : Dst) : Op Nat := do
  let s ← getState
  let c := getFlag s.p .c
  rmwInstr d (fun old => rolByte old c) fun old t =>
    { t with p := shiftFlags t.p (rolByte old c) (old.getLsbD 7) }

/-- Rotate right through the carry read on entry; old bit 0 becomes the carry (R219). -/
def opRor (d : Dst) : Op Nat := do
  let s ← getState
  let c := getFlag s.p .c
  rmwInstr d (fun old => rorByte old c) fun old t =>
    { t with p := shiftFlags t.p (rorByte old c) (old.getLsbD 0) }

/-- ASL, accumulator: opcode 0x0A, 1 byte, base 2 cycles (R216, R132, R84). -/
def execAslAcc (s : State) : Host.Outcome State Fault Refusal :=
  runInstr 1 2 (opAsl .acc) s

/-- ASL, zero page: opcode 0x06, 2 bytes, base 5 cycles (R216, R134, R84). -/
def execAslZp (zp : Byte) (s : State) : Host.Outcome State Fault Refusal :=
  runInstr 2 5 (opAsl (.mem (.zp zp))) s

/-- ASL, zero page,X: opcode 0x16, 2 bytes, base 6 cycles (R216, R135, R84). -/
def execAslZpx (zp : Byte) (s : State) : Host.Outcome State Fault Refusal :=
  runInstr 2 6 (opAsl (.mem (.zpx zp))) s

/-- ASL, absolute: opcode 0x0E, 3 bytes, base 6 cycles (R216, R137, R84). -/
def execAslAbs (addr : Word) (s : State) : Host.Outcome State Fault Refusal :=
  runInstr 3 6 (opAsl (.mem (.abs addr))) s

/-- ASL, absolute,X: opcode 0x1E, 3 bytes, base 7 cycles (R216, R138, R84). -/
def execAslAbx (addr : Word) (s : State) : Host.Outcome State Fault Refusal :=
  runInstr 3 7 (opAsl (.mem (.abx addr))) s

/-- LSR, accumulator: opcode 0x4A, 1 byte, base 2 cycles (R217, R132, R84). -/
def execLsrAcc (s : State) : Host.Outcome State Fault Refusal :=
  runInstr 1 2 (opLsr .acc) s

/-- LSR, zero page: opcode 0x46, 2 bytes, base 5 cycles (R217, R134, R84). -/
def execLsrZp (zp : Byte) (s : State) : Host.Outcome State Fault Refusal :=
  runInstr 2 5 (opLsr (.mem (.zp zp))) s

/-- LSR, zero page,X: opcode 0x56, 2 bytes, base 6 cycles (R217, R135, R84). -/
def execLsrZpx (zp : Byte) (s : State) : Host.Outcome State Fault Refusal :=
  runInstr 2 6 (opLsr (.mem (.zpx zp))) s

/-- LSR, absolute: opcode 0x4E, 3 bytes, base 6 cycles (R217, R137, R84). -/
def execLsrAbs (addr : Word) (s : State) : Host.Outcome State Fault Refusal :=
  runInstr 3 6 (opLsr (.mem (.abs addr))) s

/-- LSR, absolute,X: opcode 0x5E, 3 bytes, base 7 cycles (R217, R138, R84). -/
def execLsrAbx (addr : Word) (s : State) : Host.Outcome State Fault Refusal :=
  runInstr 3 7 (opLsr (.mem (.abx addr))) s

/-- ROL, accumulator: opcode 0x2A, 1 byte, base 2 cycles (R218, R132, R84). -/
def execRolAcc (s : State) : Host.Outcome State Fault Refusal :=
  runInstr 1 2 (opRol .acc) s

/-- ROL, zero page: opcode 0x26, 2 bytes, base 5 cycles (R218, R134, R84). -/
def execRolZp (zp : Byte) (s : State) : Host.Outcome State Fault Refusal :=
  runInstr 2 5 (opRol (.mem (.zp zp))) s

/-- ROL, zero page,X: opcode 0x36, 2 bytes, base 6 cycles (R218, R135, R84). -/
def execRolZpx (zp : Byte) (s : State) : Host.Outcome State Fault Refusal :=
  runInstr 2 6 (opRol (.mem (.zpx zp))) s

/-- ROL, absolute: opcode 0x2E, 3 bytes, base 6 cycles (R218, R137, R84). -/
def execRolAbs (addr : Word) (s : State) : Host.Outcome State Fault Refusal :=
  runInstr 3 6 (opRol (.mem (.abs addr))) s

/-- ROL, absolute,X: opcode 0x3E, 3 bytes, base 7 cycles (R218, R138, R84). -/
def execRolAbx (addr : Word) (s : State) : Host.Outcome State Fault Refusal :=
  runInstr 3 7 (opRol (.mem (.abx addr))) s

/-- ROR, accumulator: opcode 0x6A, 1 byte, base 2 cycles (R219, R132, R84). -/
def execRorAcc (s : State) : Host.Outcome State Fault Refusal :=
  runInstr 1 2 (opRor .acc) s

/-- ROR, zero page: opcode 0x66, 2 bytes, base 5 cycles (R219, R134, R84). -/
def execRorZp (zp : Byte) (s : State) : Host.Outcome State Fault Refusal :=
  runInstr 2 5 (opRor (.mem (.zp zp))) s

/-- ROR, zero page,X: opcode 0x76, 2 bytes, base 6 cycles (R219, R135, R84). -/
def execRorZpx (zp : Byte) (s : State) : Host.Outcome State Fault Refusal :=
  runInstr 2 6 (opRor (.mem (.zpx zp))) s

/-- ROR, absolute: opcode 0x6E, 3 bytes, base 6 cycles (R219, R137, R84). -/
def execRorAbs (addr : Word) (s : State) : Host.Outcome State Fault Refusal :=
  runInstr 3 6 (opRor (.mem (.abs addr))) s

/-- ROR, absolute,X: opcode 0x7E, 3 bytes, base 7 cycles (R219, R138, R84). -/
def execRorAbx (addr : Word) (s : State) : Host.Outcome State Fault Refusal :=
  runInstr 3 7 (opRor (.mem (.abx addr))) s

end Sys2Proof.Machine
end

