-- ==== Sys2Proof/Machine/Stack.lean ====
section
/-! DEFINITION. The meanings of the stack instructions (spec/43_stack.md R180 to R183). -/

namespace Sys2Proof.Machine

/-- `Push(A)` (R180). -/
def opPha : Op Nat := do
  let s ← getState
  push s.a
  pure 0

/-- `Push(P | 0x30)`; P itself keeps its break bits (R181, D17). -/
def opPhp : Op Nat := do
  let s ← getState
  push (forcedBreak s.p)
  pure 0

/-- `m <- Pop() ; A <- m ; SetZN(m)` (R182). -/
def opPla : Op Nat := do
  let m ← pop
  update fun s => s.loadA m
  pure 0

/-- `P <- Pop()`, all eight bits (R183, D18). -/
def opPlp : Op Nat := do
  let m ← pop
  update fun s => { s with p := m }
  pure 0

/-- PHA, implied: opcode 0x48, 1 byte, base 3 cycles (R180, R131, R84). -/
def execPha (s : State) : Host.Outcome State Fault Refusal :=
  runInstr 1 3 opPha s

/-- PHP, implied: opcode 0x08, 1 byte, base 3 cycles (R181, R131, R84). -/
def execPhp (s : State) : Host.Outcome State Fault Refusal :=
  runInstr 1 3 opPhp s

/-- PLA, implied: opcode 0x68, 1 byte, base 4 cycles (R182, R131, R84). -/
def execPla (s : State) : Host.Outcome State Fault Refusal :=
  runInstr 1 4 opPla s

/-- PLP, implied: opcode 0x28, 1 byte, base 4 cycles (R183, R131, R84). -/
def execPlp (s : State) : Host.Outcome State Fault Refusal :=
  runInstr 1 4 opPlp s

end Sys2Proof.Machine
end

