-- ==== Sys2Proof/Machine/Store.lean ====
section
/-! DEFINITION. The meanings of the stores STA, STX, STY (spec/42_load_store_transfer.md R163 to R165). -/

namespace Sys2Proof.Machine

/-- `StoreOperand(A)` (R163). -/
def opSta (m : MemMode) : Op Nat := storeInstr m fun s => s.a

/-- `StoreOperand(X)` (R164). -/
def opStx (m : MemMode) : Op Nat := storeInstr m fun s => s.x

/-- `StoreOperand(Y)` (R165). -/
def opSty (m : MemMode) : Op Nat := storeInstr m fun s => s.y

/-- STA, zero page: opcode 0x85, 2 bytes, base 3 cycles (R163, R134, R84). -/
def execStaZp (zp : Byte) (s : State) : Host.Outcome State Fault Refusal :=
  runInstr 2 3 (opSta (.zp zp)) s

/-- STA, zero page,X: opcode 0x95, 2 bytes, base 4 cycles (R163, R135, R84). -/
def execStaZpx (zp : Byte) (s : State) : Host.Outcome State Fault Refusal :=
  runInstr 2 4 (opSta (.zpx zp)) s

/-- STA, absolute: opcode 0x8D, 3 bytes, base 4 cycles (R163, R137, R84). -/
def execStaAbs (addr : Word) (s : State) : Host.Outcome State Fault Refusal :=
  runInstr 3 4 (opSta (.abs addr)) s

/-- STA, absolute,X: opcode 0x9D, 3 bytes, base 5 cycles (R163, R138, R84). -/
def execStaAbx (addr : Word) (s : State) : Host.Outcome State Fault Refusal :=
  runInstr 3 5 (opSta (.abx addr)) s

/-- STA, absolute,Y: opcode 0x99, 3 bytes, base 5 cycles (R163, R139, R84). -/
def execStaAby (addr : Word) (s : State) : Host.Outcome State Fault Refusal :=
  runInstr 3 5 (opSta (.aby addr)) s

/-- STA, (zero page,X): opcode 0x81, 2 bytes, base 6 cycles (R163, R141, R84). -/
def execStaIzx (zp : Byte) (s : State) : Host.Outcome State Fault Refusal :=
  runInstr 2 6 (opSta (.izx zp)) s

/-- STA, (zero page),Y: opcode 0x91, 2 bytes, base 6 cycles (R163, R142, R84). -/
def execStaIzy (zp : Byte) (s : State) : Host.Outcome State Fault Refusal :=
  runInstr 2 6 (opSta (.izy zp)) s

/-- STX, zero page: opcode 0x86, 2 bytes, base 3 cycles (R164, R134, R84). -/
def execStxZp (zp : Byte) (s : State) : Host.Outcome State Fault Refusal :=
  runInstr 2 3 (opStx (.zp zp)) s

/-- STX, zero page,Y: opcode 0x96, 2 bytes, base 4 cycles (R164, R136, R84). -/
def execStxZpy (zp : Byte) (s : State) : Host.Outcome State Fault Refusal :=
  runInstr 2 4 (opStx (.zpy zp)) s

/-- STX, absolute: opcode 0x8E, 3 bytes, base 4 cycles (R164, R137, R84). -/
def execStxAbs (addr : Word) (s : State) : Host.Outcome State Fault Refusal :=
  runInstr 3 4 (opStx (.abs addr)) s

/-- STY, zero page: opcode 0x84, 2 bytes, base 3 cycles (R165, R134, R84). -/
def execStyZp (zp : Byte) (s : State) : Host.Outcome State Fault Refusal :=
  runInstr 2 3 (opSty (.zp zp)) s

/-- STY, zero page,X: opcode 0x94, 2 bytes, base 4 cycles (R165, R135, R84). -/
def execStyZpx (zp : Byte) (s : State) : Host.Outcome State Fault Refusal :=
  runInstr 2 4 (opSty (.zpx zp)) s

/-- STY, absolute: opcode 0x8C, 3 bytes, base 4 cycles (R165, R137, R84). -/
def execStyAbs (addr : Word) (s : State) : Host.Outcome State Fault Refusal :=
  runInstr 3 4 (opSty (.abs addr)) s

end Sys2Proof.Machine
end

