-- ==== Sys2Proof/Machine/System.lean ====
section
/-! DEFINITION. The meanings of NOP, BRK, RTI (spec/47_flags_system.md R257 to R259). -/

namespace Sys2Proof.Machine

/-- Nothing but the advance of PC and the cycle count (R257). -/
def opNop : Op Nat := pure 0

/-- The software interrupt is taken, whatever I is (R258). -/
def opBrk (pc0 : Word) : Op Nat := do
  takeSoftwareInterrupt pc0
  pure 0

/-- The return from the software interrupt (R259). -/
def opRti : Op Nat := do
  returnFromInterrupt
  pure 0

/-- NOP, implied: opcode 0xEA, 1 byte, base 2 cycles (R257, R131, R84). -/
def execNop (s : State) : Host.Outcome State Fault Refusal :=
  runInstr 1 2 opNop s

/-- BRK, implied: opcode 0x00, 1 byte, base 7 cycles (R258, R131, R84). -/
def execBrk (s : State) : Host.Outcome State Fault Refusal :=
  runInstr 1 7 (opBrk s.pc) s

/-- RTI, implied: opcode 0x40, 1 byte, base 6 cycles (R259, R131, R84). -/
def execRti (s : State) : Host.Outcome State Fault Refusal :=
  runInstr 1 6 opRti s

end Sys2Proof.Machine
end

