-- ==== Sys2Proof/Machine/Transfer.lean ====
section
/-! DEFINITION. The meanings of the register transfers (spec/42_load_store_transfer.md R166 to R171). -/

namespace Sys2Proof.Machine

/-- `X <- A ; SetZN(A)` (R166). -/
def opTax : Op Nat := registerInstr fun s => s.loadX s.a

/-- `Y <- A ; SetZN(A)` (R167). -/
def opTay : Op Nat := registerInstr fun s => s.loadY s.a

/-- `A <- X ; SetZN(X)` (R168). -/
def opTxa : Op Nat := registerInstr fun s => s.loadA s.x

/-- `A <- Y ; SetZN(Y)` (R169). -/
def opTya : Op Nat := registerInstr fun s => s.loadA s.y

/-- `X <- SP ; SetZN(SP)` (R170). -/
def opTsx : Op Nat := registerInstr fun s => s.loadX s.sp

/-- `SP <- X`, no flag (R171). -/
def opTxs : Op Nat := registerInstr fun s => { s with sp := s.x }

/-- TAX, implied: opcode 0xAA, 1 byte, base 2 cycles (R166, R131, R84). -/
def execTax (s : State) : Host.Outcome State Fault Refusal :=
  runInstr 1 2 opTax s

/-- TAY, implied: opcode 0xA8, 1 byte, base 2 cycles (R167, R131, R84). -/
def execTay (s : State) : Host.Outcome State Fault Refusal :=
  runInstr 1 2 opTay s

/-- TXA, implied: opcode 0x8A, 1 byte, base 2 cycles (R168, R131, R84). -/
def execTxa (s : State) : Host.Outcome State Fault Refusal :=
  runInstr 1 2 opTxa s

/-- TYA, implied: opcode 0x98, 1 byte, base 2 cycles (R169, R131, R84). -/
def execTya (s : State) : Host.Outcome State Fault Refusal :=
  runInstr 1 2 opTya s

/-- TSX, implied: opcode 0xBA, 1 byte, base 2 cycles (R170, R131, R84). -/
def execTsx (s : State) : Host.Outcome State Fault Refusal :=
  runInstr 1 2 opTsx s

/-- TXS, implied: opcode 0x9A, 1 byte, base 2 cycles (R171, R131, R84). -/
def execTxs (s : State) : Host.Outcome State Fault Refusal :=
  runInstr 1 2 opTxs s

end Sys2Proof.Machine
end

