-- ==== Sys2Proof/Machine/Sequencer.lean ====
section
/-! DEFINITION. The execution cycle: the fetch, `ProcessorCore.tick`, `ClockSequencer.advance` and the environment's changes
of the read-side registers (spec/40_execution_cycle.md R100 to R113; spec/20_memory.md R49). -/

namespace Sys2Proof.Machine

/-- The instruction at PC: the opcode byte first, then the operand bytes its format has, in address order mod 65536; or the
fault the fetch ends in (R103, R107, R276). An illegal opcode is DecodeError with the byte and its address, and no operand
byte is read (R83, R271). -/
def State.fetch (s : State) : Except Fault Instr := do
  let op ← s.memRead s.pc
  match opcodeTable op with
  | none => .error (.decodeError op s.pc)
  | some (.f1 i) => pure i
  | some (.f2 make) => do
    let op1 ← s.memRead (s.pc + 1)
    pure (make op1)
  | some (.f3 make) => do
    let op1 ← s.memRead (s.pc + 1)
    let op2 ← s.memRead (s.pc + 2)
    pure (make (wordOf op2 op1))

/-- `tick`: one clock cycle of the processor. Halted, suspended, RETIRING, FETCHING are tested in this order (R101, R102,
R108). A fault of the fetch is latched and changes nothing else (R271, R272). -/
def tick (s : State) : Host.Outcome State Fault Refusal :=
  if s.fault.isSome then .next s
  else if s.suspended then .next s
  else if 0 < s.remaining then .next { s with remaining := s.remaining - 1 }
  else
    match s.fetch with
    | .ok i => exec i s
    | .error f => .next { s with fault := some f }

/-- The counters after the processor's part of a master tick: `div` and `hpos` advance and wrap, and a suspension ends when
`hpos` becomes `HBLANK_START` (R109, R111, R112, D11). -/
def State.count (s : State) : State :=
  let position := (s.hpos + 1) % s.cfg.lineLen
  { s with
    div := (s.div + 1) % clkRatio
    hpos := position
    suspended := s.suspended && position != s.cfg.hblankStart }

/-- `advance`: one master-clock tick. The processor ticks when `div` is 0, one master tick in three (R109, R110). A fault
raised in this call is latched and the counters still advance (D12); from the next call on nothing changes (R273). -/
def advance (s : State) : Host.Outcome State Fault Refusal :=
  if s.fault.isSome then .next s
  else
    match if s.div = 0 then tick s else .next s with
    | .next t => .next t.count
    | .fault f => .fault f
    | .refused r => .refused r

/-- The read-side registers after these changes, the first one first (R49). -/
def applyInputs (r : Vector Byte 14) (changes : List RregInput) : Vector Byte 14 :=
  changes.foldl (fun r c => r.set c.index c.value) r

/-- The environment's changes before the coming master tick, taken from the queue (R49, D22). -/
def State.takeInputs (s : State) : State :=
  match s.inputs with
  | [] => s
  | now :: later =>
    { s with rreg := applyInputs s.rreg now, inputs := later }

/-- One step: the environment's changes, then `advance`. A halted machine does not move (R273), and takes
no entry of the queue either (DESIGN CHOICE, notes/assumptions/5.md). -/
def masterTick (s : State) : Host.Outcome State Fault Refusal :=
  if s.fault.isSome then .next s else advance s.takeInputs

/-! ## Placing an instruction where the next step fetches it -/

/-- Three bytes from here on lie in the backing store, outside the window. -/
def State.fetchable (s : State) (addr : Word) : Bool :=
  [addr, addr + 1, addr + 2].all fun w => !inWindow s.cfg w && decide (w.toNat < s.cfg.memSize)

/-- Where a placed instruction goes: at PC, or at 0xF000 when PC cannot hold it because it points into the
window or out of the store, as the reset PC of an empty memory does (notes/assumptions/6.md). -/
def State.placeAddr (s : State) : Word := if s.fetchable s.pc then s.pc else 0xF000

/-- Bytes stored from an address on, straight into the backing store, mod 65536. -/
def Memory.putBytes (m : Memory) (addr : Word) : List Byte → Memory
  | [] => m
  | b :: rest => Memory.putBytes (Memory.put m addr.toNat b) (addr + 1) rest

/-- The state in which the very next step fetches and runs these bytes: stored at PC, with the processor FETCHING and a CPU
tick due. -/
def State.placeInstr (s : State) (bytes : List Byte) : State :=
  { s with
    pc := s.placeAddr
    mem := Memory.putBytes s.mem s.placeAddr bytes
    fault := none
    suspended := false
    remaining := 0
    div := 0 }

end Sys2Proof.Machine
end

