-- ==== Sys2Proof/Machine/Step.lean ====
section
/-! DEFINITION. One step of the machine, one master-clock tick (spec/40_execution_cycle.md R100, R109), and the placing of an
instruction where the next step fetches it. -/

namespace Sys2Proof.Machine

/-- One step: one call of `advance()`, preceded by what the environment does to the read-side registers. It answers a next
state always: a fatal event sets the latch `fault`, and a halted machine steps to itself (R273, U3; that it
takes no entry of the environment's queue is notes/assumptions/5.md). -/
def step (s : State) : Host.Outcome State Fault Refusal := masterTick s

/-- The state with an instruction of the opcode table's numbering placed where the very next step fetches and runs it. -/
def State.withFetchWord (s : State) (nbits w : Nat) : State := s.placeInstr (tableWordBytes nbits w)

end Sys2Proof.Machine
end

