-- ==== Sys2Proof/Machine/HostOps.lean ====
section
/-! DEFINITION. The operations of the host and of the raster collaborator that the spec describes beside the step: reset,
flush, the image load, the colour lookup (spec/70_reset_and_hazards.md R300 to R303; spec/20_memory.md R44, R52). No
instruction and no tick performs them. -/

namespace Sys2Proof.Machine

/-- The address of the reset vector (R301). -/
def resetVector : Word := 0xFFFC

/-- `reset()` (R300). The processor, the sequencer and the write-side latches take their reset values; memory, the read-side
registers and the parameters are left alone (R302). PC is `START_PC` or the word at the vector, and a vector read out of bounds
leaves the machine in the fault state (R301). -/
def State.hostReset (s : State) : State :=
  let r : State :=
    { s with
      a := 0x00
      x := 0x00
      y := 0x00
      sp := 0xFF
      p := 0x05
      remaining := 0
      suspended := false
      fault := none
      div := 0
      hpos := 0
      wreg := Vector.replicate 45 0x00 }
  match s.cfg.startPc with
  | some start => { r with pc := start }
  | none =>
    match r.memRead16 resetVector with
    | .ok start => { r with pc := start }
    | .error f => { r with fault := some f }

/-- `flush`: every byte of the backing store becomes 0; nothing else changes (R44). -/
def State.flush (s : State) : State := { s with mem := [] }

/-- Bytes written one after another into the backing store. -/
def Memory.load (m : Memory) (start : Nat) : List Byte → Memory
  | [] => m
  | b :: rest => Memory.load (Memory.put m start b) (start + 1) rest

/-- The image load: the whole content byte for byte into the backing store, past the window decoder; it fails if the content
does not fit in the space to the end of the store (R303 step 2). The failure is the host's ResourceError (R275). -/
def State.loadImage (s : State) (start : Nat) (image : List Byte) : Option State :=
  if start + image.length ≤ s.cfg.memSize then some { s with mem := Memory.load s.mem start image } else none

/-- `colorLookup(code)`: the low bit of the code is masked; a missing entry is black (R52). -/
def colorLookup (c : Config) (code : Byte) : Rgb :=
  match c.colorTable.find? fun e => e.1 == code &&& 0xFE#8 with
  | some e => e.2
  | none => 0x000000

end Sys2Proof.Machine
end

