-- ==== Sys2Proof/Safety.lean ====
section
/-! DEFINITION. The terms claims are made in: a safe state, the invariant of the machine, which addresses an instruction writes,
and which mnemonics the spec lets write each flag and register (spec/10_state.md R10 to R15, R19 to R23; spec/60_exceptions.md
R273). -/

namespace Sys2Proof.Machine

/-- A safe state: no fatal event has happened ("a run that reaches a fault state has ended, and has not ended successfully",
R273). -/
def State.safe (s : State) : Prop := s.fault = none

/-- The invariant of the machine: the parameters are ones the spec accepts (R3); the backing store is in canonical form and
within its bound (R19); the counters are in range (R20, R23) and in phase (R113). -/
structure State.Inv (s : State) : Prop where
  cfg : s.cfg.wf = true
  mem : Memory.wf s.mem = true
  bound : Memory.below s.mem s.cfg.memSize = true
  remaining : s.remaining ≤ 6
  div : s.div < clkRatio
  hpos : s.hpos < s.cfg.lineLen
  phase : s.div = s.hpos % clkRatio

/-- An address in the backing store: not in the window and below the bound (R41, R42). -/
def State.stored (s : State) (addr : Word) : Prop := inWindow s.cfg addr = false ∧ addr.toNat < s.cfg.memSize

/-- The address of a window offset. -/
def windowAddr (c : Config) (o : Nat) : Word := c.pwinBase + BitVec.ofNat 16 o

/-- The processor is in the FETCHING state and a CPU tick is due: the next step executes an instruction (R101, R110). -/
def State.fetching (s : State) : Prop :=
  s.fault = none ∧ s.suspended = false ∧ s.remaining = 0 ∧ s.div = 0

end Sys2Proof.Machine

namespace Sys2Proof

open Machine in
/-- The addresses an instruction writes through the bus, in order (R148, R149, R144): the effective address of a store or of a
read-modify-write in a memory mode, the stack bytes of a push, a call or a software interrupt. -/
def Instr.writes (i : Instr) (s : State) : List Word :=
  match i.mnemonic with
  | .sta | .stx | .sty | .inc | .dec | .asl | .lsr | .rol | .ror =>
    match i.mode with
    | .mem m =>
      match s.effAddr m with
      | .ok ea => [ea.addr]
      | .error _ => []
    | _ => []
  | .pha | .php => [stackAddr s.sp]
  | .jsr => [stackAddr s.sp, stackAddr (s.sp - 1)]
  | .brk => [stackAddr s.sp, stackAddr (s.sp - 1), stackAddr (s.sp - 2)]
  | _ => []

end Sys2Proof

namespace Sys2Proof.Machine

/-- The mnemonics that write each flag (the table of R15). -/
def Flag.writers : Flag → List Mnemonic
  | .c => [.adc, .sbc, .cmp, .cpx, .cpy, .asl, .lsr, .rol, .ror, .clc, .sec, .plp, .rti]
  | .z => [.lda, .ldx, .ldy, .tax, .tay, .txa, .tya, .tsx, .pla, .ora, .and, .eor, .adc, .sbc, .inc, .dec, .inx, .iny, .dex,
      .dey, .asl, .lsr, .rol, .ror, .cmp, .cpx, .cpy, .bit, .plp, .rti]
  | .i => [.sei, .cli, .brk, .plp, .rti]
  | .d => [.sed, .cld, .plp, .rti]
  | .bl | .bh => [.plp, .rti]
  | .v => [.adc, .sbc, .bit, .clv, .plp, .rti]
  | .n => [.lda, .ldx, .ldy, .tax, .tay, .txa, .tya, .tsx, .pla, .ora, .and, .eor, .adc, .sbc, .inc, .dec, .inx, .iny, .dex,
      .dey, .asl, .lsr, .rol, .ror, .cmp, .cpx, .cpy, .bit, .plp, .rti]

/-- The mnemonics whose rules write A (files 42 to 45; the shifts only in mode ACC). -/
def writersOfA : List Mnemonic :=
  [.lda, .txa, .tya, .pla, .ora, .and, .eor, .adc, .sbc, .asl, .lsr, .rol, .ror]

/-- The mnemonics whose rules write X. -/
def writersOfX : List Mnemonic := [.ldx, .tax, .tsx, .inx, .dex]

/-- The mnemonics whose rules write Y. -/
def writersOfY : List Mnemonic := [.ldy, .tay, .iny, .dey]

/-- The mnemonics that write SP: TXS, the pushes and the pops (R11). -/
def writersOfSp : List Mnemonic := [.txs, .pha, .php, .pla, .plp, .jsr, .rts, .brk, .rti]

/-- The mnemonics that transfer control (spec/46_control_flow.md; BRK and RTI). -/
def controlTransfers : List Mnemonic :=
  [.jmp, .jsr, .rts, .bpl, .bmi, .bvc, .bvs, .bcc, .bcs, .bne, .beq, .brk, .rti]

end Sys2Proof.Machine
end

