-- ==== Sys2Proof/Certificates/Slice0/Obligations.lean ====
section
/-! DEFINITION. The statements for the provers, each a Prop about the model. Rules are of spec/; "log <n>" is
notes/assumptions/<n>.md. A statement about an instruction quantifies over every opcode of its mnemonic through
`Instr.mnemonic` and `Instr.mode`, and an `encodingEntry` list repeats the "Encoding" line of the rule. An equation
`exec i s = .next { … }` says completion, result and frame at once: every field it does not name is as it was. -/

namespace Sys2Proof.Machine

/-! ## Encoding lines of the rules (spec/30_encoding.md R84) -/

/-- An entry without page-cross sensitivity. -/
def entry (opcode : Byte) (mode : ModeTag) (base : Nat) : Byte × ModeTag × Nat × Bool := (opcode, mode, base, false)

/-- An entry marked "+". -/
def entryPlus (opcode : Byte) (mode : ModeTag) (base : Nat) : Byte × ModeTag × Nat × Bool := (opcode, mode, base, true)

/-- A byte as a signed number (R201). -/
def signed (b : Byte) : Int := b.toInt

end Sys2Proof.Machine

namespace Sys2Proof

open Machine

/-- The instruction's entry is in the list. -/
def Instr.encodedAs (i : Instr) (l : List (Byte × ModeTag × Nat × Bool)) : Prop := i.encodingEntry ∈ l

/-- The state after an instruction that ran to its end: PC past it and the idle cycles set, the rest as given (R103, R104). -/
def Instr.retire (i : Instr) (s : State) (extra : Nat) (t : State) : State :=
  { t with pc := s.pc + BitVec.ofNat 16 i.length, remaining := i.row.base - 1 + extra }

end Sys2Proof

open Sys2Proof Sys2Proof.Machine

/-! ## Encoding and decoding -/

/-- Decoding the encoding of any instruction, with any operand and any bytes after it, gives it back with those bytes
(R80 to R84). -/
def Obligations.DecodeOfEncodeIsIdentity : Prop :=
  ∀ (i : Instr) (rest : List Byte), i.wellFormed = true → decode (encode i ++ rest) = .ok (i, rest)

/-- Whatever decodes is an encoding: no bytes are read as an instruction but its own (R83). -/
def Obligations.DecodedBytesAreTheEncoding : Prop :=
  ∀ (bytes rest : List Byte) (i : Instr), decode bytes = .ok (i, rest) → bytes = encode i ++ rest

/-- R85: the 105 listed opcode bytes, and no others, are illegal, whatever follows them. -/
def Obligations.ExactlyTheListedOpcodesAreIllegal : Prop :=
  ∀ (op : Byte) (rest : List Byte),
    decode (op :: rest) = .error (.illegalOpcode op) ↔
      op.toNat ∈ [0x02, 0x03, 0x04, 0x07, 0x0B, 0x0C, 0x0F, 0x12, 0x13, 0x14, 0x17, 0x1A, 0x1B, 0x1C, 0x1F] ++
        [0x22, 0x23, 0x27, 0x2B, 0x2F, 0x32, 0x33, 0x34, 0x37, 0x3A, 0x3B, 0x3C, 0x3F] ++
        [0x42, 0x43, 0x44, 0x47, 0x4B, 0x4F, 0x52, 0x53, 0x54, 0x57, 0x5A, 0x5B, 0x5C, 0x5F] ++
        [0x62, 0x63, 0x64, 0x67, 0x6B, 0x6F, 0x72, 0x73, 0x74, 0x77, 0x7A, 0x7B, 0x7C, 0x7F] ++
        [0x80, 0x82, 0x83, 0x87, 0x89, 0x8B, 0x8F, 0x92, 0x93, 0x97, 0x9B, 0x9C, 0x9E, 0x9F] ++
        [0xA3, 0xA7, 0xAB, 0xAF, 0xB2, 0xB3, 0xB7, 0xBB, 0xBF] ++
        [0xC2, 0xC3, 0xC7, 0xCB, 0xCF, 0xD2, 0xD3, 0xD4, 0xD7, 0xDA, 0xDB, 0xDC, 0xDF] ++
        [0xE2, 0xE3, 0xE7, 0xEB, 0xEF, 0xF2, 0xF3, 0xF4, 0xF7, 0xFA, 0xFB, 0xFC, 0xFF]

/-- Words written out from the examples of R88: each decodes to the instruction it stands for. -/
def Obligations.ExampleWordsOfTheSyntaxTableDecode : Prop :=
  decode [0xE8] = .ok (.inx, []) ∧ decode [0x0A] = .ok (.aslAcc, []) ∧ decode [0xA9, 0x05] = .ok (.ldaImm 0x05, []) ∧
    decode [0xA5, 0x80] = .ok (.ldaZp 0x80, []) ∧ decode [0xB5, 0x80] = .ok (.ldaZpx 0x80, []) ∧
    decode [0xB6, 0x80] = .ok (.ldxZpy 0x80, []) ∧ decode [0xAD, 0x34, 0x12] = .ok (.ldaAbs 0x1234, []) ∧
    decode [0xBD, 0x34, 0x12] = .ok (.ldaAbx 0x1234, []) ∧ decode [0xB9, 0x34, 0x12] = .ok (.ldaAby 0x1234, []) ∧
    decode [0x6C, 0x34, 0x12] = .ok (.jmpInd 0x1234, []) ∧ decode [0xA1, 0x80] = .ok (.ldaIzx 0x80, []) ∧
    decode [0xB1, 0x80] = .ok (.ldaIzy 0x80, []) ∧ decode [0xD0, 0xFB] = .ok (.bne 0xFB, [])

/-! ## Reset and the host -/

/-- The invariant holds right after reset. -/
def Obligations.ResetMeetsTheInvariant : Prop := State.reset.Inv

/-- The reset operation, from any state: the document's values of A, X, Y, SP and P (R10, R11, R14), the spec's decided values
of the rest (D11 to D13, logs 11 and 12), and everything reset leaves alone (R302), whatever PC becomes. -/
def Obligations.HostResetSetsEveryRegisterAndLeavesMemory : Prop :=
  ∀ s : State, ∃ (pc : Word) (f : Option Fault),
    s.hostReset =
      { s with
        a := 0x00, x := 0x00, y := 0x00, sp := 0xFF, p := 0x05, pc := pc, remaining := 0, suspended := false, fault := f,
        div := 0, hpos := 0, wreg := Vector.replicate 45 0x00 }

/-- R301: PC at reset is the little-endian word at 0xFFFC and 0xFFFD, or `START_PC` without reading the vector; a vector read
out of bounds starts the machine in the fault state. -/
def Obligations.ResetVectorGivesThePc : Prop :=
  ∀ s : State,
    (∀ start, s.cfg.startPc = some start → s.hostReset.pc = start ∧ s.hostReset.fault = none) ∧
    (s.cfg.startPc = none →
      (∀ lo hi, s.memRead 0xFFFC = .ok lo → s.memRead 0xFFFD = .ok hi →
        s.hostReset.pc.toNat = hi.toNat * 256 + lo.toNat ∧ s.hostReset.fault = none) ∧
      (∀ f, s.memRead 0xFFFC = .error f → s.hostReset.fault = some (.boundsError 0xFFFC)) ∧
      (∀ lo f, s.memRead 0xFFFC = .ok lo → s.memRead 0xFFFD = .error f →
        s.hostReset.fault = some (.boundsError 0xFFFD)))

/-- R44: `flush` zeroes the entire backing store and touches neither the peripheral registers nor the processor. -/
def Obligations.FlushZeroesTheStoreAndNothingElse : Prop :=
  ∀ (s : State) (addr : Nat), Memory.get s.flush.mem addr = 0x00 ∧ { s.flush with mem := s.mem } = s

/-- The image load copies the content byte for byte from the start address on, changes no other byte and nothing else, and fails
exactly if the content does not fit (R303 step 2). -/
def Obligations.ImageLoadCopiesByteForByte : Prop :=
  ∀ (s : State) (start : Nat) (image : List Byte), Memory.wf s.mem = true →
    (s.loadImage start image = none ↔ s.cfg.memSize < start + image.length) ∧
    ∀ t, s.loadImage start image = some t →
      (∀ k v, image[k]? = some v → Memory.get t.mem (start + k) = v) ∧
      (∀ addr, addr < start ∨ start + image.length ≤ addr → Memory.get t.mem addr = Memory.get s.mem addr) ∧
      { t with mem := s.mem } = s

/-- The colour lookup masks the low bit of the code, so adjacent codes alias; an entry gives its colour; a missing entry is black
(R52; the 24 bits are D30). -/
def Obligations.ColorLookupMasksTheLowBit : Prop :=
  ∀ (c : Config) (code : Byte), c.colorTableOk = true →
    colorLookup c code = colorLookup c (code ^^^ 0x01) ∧
    (∀ rgb, (code &&& 0xFE, rgb) ∈ c.colorTable → colorLookup c code = rgb) ∧
    ((∀ rgb, (code &&& 0xFE, rgb) ∉ c.colorTable) → colorLookup c code = 0x000000)

/-! ## The execution cycle -/

/-- When the bytes at PC decode to an instruction and the processor is FETCHING with a CPU tick due, the step is the environment's
changes, then that instruction's meaning, then the counters (R101, R103, R109, R110). That the changes come first, from the model's
own queue, is the model's choice (D22; log 5, DESIGN CHOICE). -/
def Obligations.StepRunsTheDecodedInstruction : Prop :=
  ∀ (s : State) (i : Instr) (bytes : List Byte), s.fetching → i.wellFormed = true → decode bytes = .ok (i, []) →
    (∀ k b, bytes[k]? = some b → s.takeInputs.memRead (s.pc + BitVec.ofNat 16 k) = .ok b) →
    ∃ t, exec i s.takeInputs = .next t ∧ step s = .next t.count

/-- A RETIRING tick decrements `remaining_cycles` only (R102), and the processor ticks in one master tick of three: with `div` not 0 a
master tick does nothing but count, whatever the processor is in the middle of, and with `div` = 0 a RETIRING one counts down by one
and counts (R109, R110; D11, log 11). The same of a step, after the environment's changes (`takeInputs`; D22, log 5, the model's choice). -/
def Obligations.RetiringTickOnlyCountsDown : Prop :=
  (∀ (s : State) (n : Nat), s.fault = none → s.suspended = false → s.remaining = n + 1 →
    tick s = .next { s with remaining := n } ∧
    (s.div = 0 → advance s = .next ({ s with remaining := n } : State).count ∧
      step s = .next ({ s.takeInputs with remaining := n } : State).count)) ∧
  ∀ s : State, s.fault = none → s.div ≠ 0 → advance s = .next s.count ∧ step s = .next s.takeInputs.count

/-- R108: a suspended tick changes nothing at all, not even `remaining_cycles`, while the step keeps counting `div` and
`hpos`, after the environment's changes (`takeInputs`; D22, log 5, the model's choice). -/
def Obligations.SuspendedTickChangesNothing : Prop :=
  ∀ s : State, s.fault = none → s.suspended = true → tick s = .next s ∧ step s = .next s.takeInputs.count

/-- Once `fault` is set, every later tick and advance leaves the whole state as it is (R273; the latch is D12, log 1). That a step does
so too, taking no entry of the environment's queue, so that the read-side registers stay, is the model's choice (R49 would let the
environment go on; D22, log 5, DESIGN CHOICE). -/
def Obligations.HaltedMachineNeverMoves : Prop :=
  ∀ (s : State) (f : Fault), s.fault = some f → tick s = .next s ∧ advance s = .next s ∧ step s = .next s

/-- A step that executes: an illegal opcode latches DecodeError with the byte and its address, and a byte of the instruction that
lies nowhere latches BoundsError with its address, before which the opcode is tested; nothing of the processor changes
(R271, R272, R276; D12, log 1). The environment's changes come first (`takeInputs`; D22, log 5, the model's choice). -/
def Obligations.FetchFaultsAreLatchedPrecisely : Prop :=
  ∀ s : State, s.fetching →
    (∀ f, s.takeInputs.memRead s.pc = .error f →
      step s = .next ({ s.takeInputs with fault := some (.boundsError s.pc) } : State).count) ∧
    (∀ op, s.takeInputs.memRead s.pc = .ok op → opcodeTable op = none →
      step s = .next ({ s.takeInputs with fault := some (.decodeError op s.pc) } : State).count) ∧
    (∀ (i : Instr) f, s.takeInputs.memRead s.pc = .ok i.row.opcode → 2 ≤ i.length →
      s.takeInputs.memRead (s.pc + 1) = .error f →
      step s = .next ({ s.takeInputs with fault := some (.boundsError (s.pc + 1)) } : State).count) ∧
    (∀ (i : Instr) op1 f, s.takeInputs.memRead s.pc = .ok i.row.opcode → i.length = 3 →
      s.takeInputs.memRead (s.pc + 1) = .ok op1 → s.takeInputs.memRead (s.pc + 2) = .error f →
      step s = .next ({ s.takeInputs with fault := some (.boundsError (s.pc + 2)) } : State).count)

/-- Whatever a step does, a machine that was not halted counts one master tick: `div` mod 3, `hpos` mod `LINE_LEN`; it keeps its
parameters; and it cannot be suspended at `HBLANK_START` (R109 to R112; D11, log 11). It also takes one entry of the environment's
queue, which is the model's own field (D22; log 5, DESIGN CHOICE). -/
def Obligations.EveryStepCountsOneMasterTick : Prop :=
  ∀ s t : State, s.fault = none → step s = .next t →
    t.div = (s.div + 1) % 3 ∧ t.hpos = (s.hpos + 1) % s.cfg.lineLen ∧ t.cfg = s.cfg ∧ t.inputs = s.inputs.tail ∧
      (t.hpos = s.cfg.hblankStart → t.suspended = false)

/-- The machine is total: every instruction and every step answer a next state, from every state (U3). -/
def Obligations.EveryStepAnswersANextState : Prop :=
  (∀ (i : Instr) (s : State), ∃ t, exec i s = .next t) ∧ ∀ s : State, ∃ t, step s = .next t

/-- Every step keeps the invariant: accepted parameters, a canonical store within its bound, counters in range and in phase
(R19, R20, R23, R113). -/
def Obligations.EveryStepKeepsTheInvariant : Prop :=
  ∀ s t : State, s.Inv → step s = .next t → t.Inv

/-- The wait-strobe property: from a suspended machine, for every number of steps that does not reach the start of horizontal
blank, the machine is still suspended with every register, flag, latch, memory byte and `remaining_cycles` unchanged; on
reaching it the suspension ends, with the same state (R108, R112, R285; HBLANK_START is D11, log 11). The read-side registers
change by the environment's entries for those steps alone, and so not at all if it does nothing (R49; that it acts through the
model's own queue is D22, log 5, DESIGN CHOICE). -/
def Obligations.SuspensionLastsToTheHorizontalBlank : Prop :=
  ∀ (s : State) (k : Nat), s.Inv → s.fault = none → s.suspended = true →
    (∀ j, j < k → (s.hpos + 1 + j) % s.cfg.lineLen ≠ s.cfg.hblankStart) →
    Host.Core.run Sys2Proof.core k s =
      .next { s with
        div := (s.div + k) % 3, hpos := (s.hpos + k) % s.cfg.lineLen,
        rreg := applyInputs s.rreg (s.inputs.take k).flatten, inputs := s.inputs.drop k } ∧
    ((s.hpos + 1 + k) % s.cfg.lineLen = s.cfg.hblankStart →
      Host.Core.run Sys2Proof.core (k + 1) s =
        .next { s with
          div := (s.div + (k + 1)) % 3, hpos := s.cfg.hblankStart, suspended := false,
          rreg := applyInputs s.rreg (s.inputs.take (k + 1)).flatten, inputs := s.inputs.drop (k + 1) }) ∧
    (s.inputs = [] → applyInputs s.rreg (s.inputs.take k).flatten = s.rreg)

/-- A halted processor never resumes mid-cycle: with `HBLANK_START` on a CPU-cycle boundary, as the default 0 is, the step that ends a
suspension leaves `div` = 0, so the very next step ticks the processor (R113). -/
def Obligations.ResumeFallsBetweenCpuCycles : Prop :=
  ∀ s t : State, s.Inv → s.cfg.hblankStart % 3 = 0 → step s = .next t → s.suspended = true → t.suspended = false →
    t.div = 0

/-! ## Memory and the window -/

/-- R60, R42: a byte written to the backing store reads as written, and every other address of the machine reads as before. -/
def Obligations.StoredByteReadsBack : Prop :=
  ∀ (s t : State) (addr : Word) (v : Byte), Memory.wf s.mem = true → s.stored addr → s.memWrite addr v = .ok t →
    t.memRead addr = .ok v ∧ (∀ b, b ≠ addr → t.memRead b = s.memRead b) ∧ { t with mem := s.mem } = s

/-- A write in the window never reaches the backing store or the processor's registers: on the write side it latches its byte, sets
`suspended` exactly at the wait strobe, zeroes exactly the collision registers exactly at the collision-latch clear; at every other
offset it changes nothing (R42, R45 to R48; D8, D10, D21, logs 10, 13 and 14). -/
def Obligations.WindowWriteGoesToThePeripheral : Prop :=
  ∀ (s : State) (addr : Word) (v : Byte), inWindow s.cfg addr = true →
    ∃ t, s.memWrite addr v = .ok t ∧
      { t with wreg := s.wreg, rreg := s.rreg, suspended := s.suspended } = s ∧
      (0x2C < windowOffset s.cfg addr → t = s) ∧
      (∀ o : Fin 45, t.wreg[o] = if windowOffset s.cfg addr = o.val then v else s.wreg[o]) ∧
      (windowOffset s.cfg addr ≤ 0x2C →
        (t.suspended = true ↔ s.suspended = true ∨ windowOffset s.cfg addr = s.cfg.wsyncOffset) ∧
        ∀ o : Fin 14, t.rreg[o] =
          if windowOffset s.cfg addr = s.cfg.cxclrOffset ∧ o.val < 8 then 0x00 else s.rreg[o])

/-- Reads of write-only and unknown offsets give the one placeholder byte, whatever it is, now and after any step: it is stable
(R50; its value is free, log 8). -/
def Obligations.PlaceholderReadIsStable : Prop :=
  ∀ (s t : State) (addr : Word), inWindow s.cfg addr = true →
    (windowOffset s.cfg addr < 0x30 ∨ 0x3D < windowOffset s.cfg addr) → step s = .next t →
    s.memRead addr = .ok s.cfg.rdPlaceholder ∧ t.memRead addr = .ok s.cfg.rdPlaceholder

/-- Read-side registers read as their current value, and no step changes what they read as but by the environment's changes and, for
the eight collision registers, by an instruction that writes the collision-latch clear: an executing step too leaves a register
as the environment left it, and with nothing from the environment a second read gives the same value (R49, R47, R56, S7). That
the environment's changes come first, from the model's own queue, is the model's choice (D22; log 5, DESIGN CHOICE). -/
def Obligations.ReadSideRegisterReadsItsValue : Prop :=
  ∀ (s : State) (addr : Word) (k : Fin 14), inWindow s.cfg addr = true → windowOffset s.cfg addr = 0x30 + k.val →
    s.memRead addr = .ok s.rreg[k] ∧
    ∀ t, step s = .next t →
      (k.val < 8 → s.fetching → ∀ i, s.takeInputs.fetch = .ok i →
        windowAddr s.cfg s.cfg.cxclrOffset ∉ i.writes s.takeInputs) →
      (s.fault = none → t.memRead addr = .ok s.takeInputs.rreg[k]) ∧
      (s.inputs = [] → t.memRead addr = .ok s.rreg[k])

/-- R43: an access faults exactly if its address is neither in the window nor below `MEM_SIZE`, with that address; an in-window access
never faults; with `MEM_SIZE` = 65536 no access faults. -/
def Obligations.BoundsErrorExactlyOutsideTheStore : Prop :=
  ∀ (s : State) (addr : Word) (v : Byte),
    (s.memRead addr = .error (.boundsError addr) ↔ inWindow s.cfg addr = false ∧ s.cfg.memSize ≤ addr.toNat) ∧
    (s.memWrite addr v = .error (.boundsError addr) ↔ inWindow s.cfg addr = false ∧ s.cfg.memSize ≤ addr.toNat) ∧
    (∀ f, s.memRead addr = .error f → f = .boundsError addr) ∧
    (∀ f, s.memWrite addr v = .error f → f = .boundsError addr) ∧
    (s.cfg.memSize = 65536 → (∃ b, s.memRead addr = .ok b) ∧ ∃ t, s.memWrite addr v = .ok t)

/-! ## Whole-machine frames -/

/-- Every instruction writes memory only at the addresses `Instr.writes` computes: every other byte of the backing store, and every byte
the processor cannot reach under the window, is as before; so is every other latch; and the read side reads as before unless the
collision-latch clear is among them (R19, R42, R45, R47). -/
def Obligations.InstructionsStoreOnlyWhereTheyWrite : Prop :=
  ∀ (i : Instr) (s t : State), exec i s = .next t →
    (∀ addr : Word, addr ∉ i.writes s → inWindow s.cfg addr = false → t.memRead addr = s.memRead addr) ∧
    (∀ addr : Word, addr ∉ i.writes s ∨ inWindow s.cfg addr = true →
      Memory.get t.mem addr.toNat = Memory.get s.mem addr.toNat) ∧
    (∀ o : Fin 45, windowAddr s.cfg o.val ∉ i.writes s → t.wreg[o] = s.wreg[o]) ∧
    (windowAddr s.cfg s.cfg.cxclrOffset ∉ i.writes s → t.rreg = s.rreg)

/-- A, X, Y and SP are written only by the mnemonics whose rules say so; the shifts and rotates write A only in mode ACC (R10, R11;
the lists are those of files 42 to 47). -/
def Obligations.RegistersAreWrittenOnlyByTheirMnemonics : Prop :=
  ∀ (i : Instr) (s t : State), exec i s = .next t →
    (i.mnemonic ∉ writersOfA → t.a = s.a) ∧
    (i.mnemonic ∈ [.asl, .lsr, .rol, .ror] → i.mode ≠ .acc → t.a = s.a) ∧
    (i.mnemonic ∉ writersOfX → t.x = s.x) ∧ (i.mnemonic ∉ writersOfY → t.y = s.y) ∧
    (i.mnemonic ∉ writersOfSp → t.sp = s.sp)

/-- R15: no instruction other than those listed for a flag changes that flag. -/
def Obligations.FlagsAreWrittenOnlyByTheirWriters : Prop :=
  ∀ (i : Instr) (s t : State) (f : Flag), exec i s = .next t → i.mnemonic ∉ f.writers →
    getFlag t.p f = getFlag s.p f

/-- An instruction that transfers no control leaves PC just past itself, mod 65536; and no instruction touches the parameters, the
counters (R12, R103, R109) or the environment's queue, the model's own field (D22; log 5, DESIGN CHOICE). -/
def Obligations.PcAdvancesByTheLength : Prop :=
  ∀ (i : Instr) (s t : State), exec i s = .next t →
    (i.mnemonic ∉ controlTransfers → t.pc.toNat = (s.pc.toNat + i.length) % 65536) ∧
    t.cfg = s.cfg ∧ t.div = s.div ∧ t.hpos = s.hpos ∧ t.inputs = s.inputs

/-- An instruction that ends without a fault leaves the processor suspended exactly if it was, or if one of the addresses it writes is
the wait strobe's: nothing but a write sets `suspended`, and no instruction clears it (R21, R46, R307). -/
def Obligations.OnlyTheWaitStrobeSuspends : Prop :=
  ∀ (i : Instr) (s t : State), s.cfg.wf = true → exec i s = .next t → t.fault = none →
    (t.suspended = true ↔ s.suspended = true ∨ windowAddr s.cfg s.cfg.wsyncOffset ∈ i.writes s)

/-- An instruction occupies between 2 and 7 cycles: it leaves `remaining_cycles` = base - 1 + extra with extra at most 2, and at most 6
in all (R20, R87, R104, R312). -/
def Obligations.InstructionTakesTwoToSevenCycles : Prop :=
  ∀ (i : Instr) (s t : State), exec i s = .next t → t.fault = none →
    1 ≤ t.remaining ∧ t.remaining ≤ 6 ∧ i.row.base - 1 ≤ t.remaining ∧ t.remaining ≤ i.row.base + 1

/-- With the whole space stored no instruction faults, and a step of a machine that has not faulted ends in a fault only by fetching an
illegal opcode (R43, R270, R271; D5, log 9), read after the environment's changes (`takeInputs`; D22, log 5, the model's choice). -/
def Obligations.OnlyIllegalOpcodesFaultInAFullStore : Prop :=
  (∀ (i : Instr) (s t : State), s.cfg.memSize = 65536 → exec i s = .next t → t.fault = s.fault) ∧
  ∀ (s t : State) (f : Fault), s.cfg.memSize = 65536 → s.fault = none → step s = .next t → t.fault = some f →
    s.fetching ∧ ∃ op, f = .decodeError op s.pc ∧ s.takeInputs.memRead s.pc = .ok op ∧ opcodeTable op = none ∧
      t = ({ s.takeInputs with fault := some f } : State).count

/-- A fault inside an instruction is BoundsError at an address that is neither in the window nor stored; `remaining_cycles` keeps its
value (R272; D12, log 1). -/
def Obligations.InstructionFaultsAreBoundsErrors : Prop :=
  ∀ (i : Instr) (s t : State) (f : Fault), s.fault = none → exec i s = .next t → t.fault = some f →
    t.remaining = s.remaining ∧ ∃ addr : Word, f = .boundsError addr ∧ ¬s.stored addr ∧ inWindow s.cfg addr = false

/-! ## Computations -/

/-- R146: `SetZN(v)` sets Z iff v = 0, N to bit 7 of v, and changes no other flag. -/
def Obligations.SetZNWritesTwoFlags : Prop :=
  ∀ p v : Byte,
    (getFlag (setZN p v) .z = true ↔ v.toNat = 0) ∧ (getFlag (setZN p v) .n = true ↔ 128 ≤ v.toNat) ∧
    ∀ f : Flag, f ≠ .z → f ≠ .n → getFlag (setZN p v) f = getFlag p f

/-- `AddWithCarry`: the result is the wide sum mod 256, C its carry out, V the overflow rule of the machine on operands and result,
Z and N the result's; D is neither read nor written, nor are I and the break bits (R190; D4). -/
def Obligations.AddWithCarryIsBinaryAddition : Prop :=
  ∀ (vr : VRule) (p a m : Byte),
    let sum := a.toNat + m.toNat + (getFlag p .c).toNat
    let r := adcResult a m (getFlag p .c)
    let q := adcFlags vr p a m
    r.toNat = sum % 256 ∧ (getFlag q .c = true ↔ 255 < sum) ∧ getFlag q .v = overflowRule vr a m r ∧
      (getFlag q .z = true ↔ r.toNat = 0) ∧ (getFlag q .n = true ↔ 128 ≤ r.toNat) ∧
      ∀ f : Flag, f ∉ [.c, .v, .z, .n] → getFlag q f = getFlag p f

/-- With the canonical rule V is set exactly when the signed sum, or for SBC the signed difference, lies outside -128 to 127; and SBC's
carry means no borrow (R190, R197; D2, D26, log 7). -/
def Obligations.CanonicalOverflowIsSignedOverflow : Prop :=
  ∀ (p a m : Byte),
    let c : Nat := (getFlag p .c).toNat
    let add := adcFlags .canonical p a m
    let sub := adcFlags .canonical p a (m ^^^ 0xFF)
    (getFlag add .v = true ↔ (signed a + signed m + c < -128 ∨ 127 < signed a + signed m + c)) ∧
    (getFlag sub .v = true ↔
      (signed a - signed m - (1 - (c : Int)) < -128 ∨ 127 < signed a - signed m - (1 - (c : Int)))) ∧
    (getFlag sub .c = true ↔ m.toNat + (1 - c) ≤ a.toNat) ∧
    ((adcResult a (m ^^^ 0xFF) (getFlag p .c)).toNat : Int) = ((a.toNat : Int) - m.toNat - (1 - (c : Int))) % 256

/-- R191: `Compare(r, m)` sets C iff r >= m unsigned, Z iff equal, N to bit 7 of the difference mod 256; V and the rest stay, and C on
entry is not read. -/
def Obligations.CompareIsUnsigned : Prop :=
  ∀ p r m : Byte,
    (getFlag (compareFlags p r m) .c = true ↔ m.toNat ≤ r.toNat) ∧
    (getFlag (compareFlags p r m) .z = true ↔ r.toNat = m.toNat) ∧
    (getFlag (compareFlags p r m) .n = true ↔ 128 ≤ (256 + r.toNat - m.toNat) % 256) ∧
    (∀ f : Flag, f ∉ [.c, .z, .n] → getFlag (compareFlags p r m) f = getFlag p f) ∧
    compareFlags (setFlag p .c true) r m = compareFlags (setFlag p .c false) r m

/-- The effective addresses as numbers, zero-page indexing inside page 0 and absolute indexing mod 65536, and when an index crosses a
page (R134 to R139, R105). -/
def Obligations.EffectiveAddressesWrapAsStated : Prop :=
  ∀ (s : State) (zp : Byte) (w : Word),
    (∃ ea, s.effAddr (.zp zp) = .ok ea ∧ ea.addr.toNat = zp.toNat ∧ ea.crossed = false) ∧
    (∃ ea, s.effAddr (.zpx zp) = .ok ea ∧ ea.addr.toNat = (zp.toNat + s.x.toNat) % 256 ∧ ea.crossed = false) ∧
    (∃ ea, s.effAddr (.zpy zp) = .ok ea ∧ ea.addr.toNat = (zp.toNat + s.y.toNat) % 256 ∧ ea.crossed = false) ∧
    (∃ ea, s.effAddr (.abs w) = .ok ea ∧ ea.addr = w ∧ ea.crossed = false) ∧
    (∃ ea, s.effAddr (.abx w) = .ok ea ∧ ea.addr.toNat = (w.toNat + s.x.toNat) % 65536 ∧
      (ea.crossed = true ↔ 255 < w.toNat % 256 + s.x.toNat)) ∧
    (∃ ea, s.effAddr (.aby w) = .ok ea ∧ ea.addr.toNat = (w.toNat + s.y.toNat) % 65536 ∧
      (ea.crossed = true ↔ 255 < w.toNat % 256 + s.y.toNat))

/-- The pointer modes: two consecutive bytes, low first, also when the first is at 0x00FF and the second at 0x0100; (zp,X) wraps the
index in page 0, (zp),Y adds Y to the pointer mod 65536 (R141, R142; D15, log 16). -/
def Obligations.PointersAreTwoConsecutiveBytes : Prop :=
  ∀ (s : State) (zp lo hi : Byte),
    (s.memRead (BitVec.ofNat 16 ((zp.toNat + s.x.toNat) % 256)) = .ok lo →
      s.memRead (BitVec.ofNat 16 ((zp.toNat + s.x.toNat) % 256 + 1)) = .ok hi →
      ∃ ea, s.effAddr (.izx zp) = .ok ea ∧ ea.addr.toNat = hi.toNat * 256 + lo.toNat ∧ ea.crossed = false) ∧
    (s.memRead (BitVec.ofNat 16 zp.toNat) = .ok lo → s.memRead (BitVec.ofNat 16 (zp.toNat + 1)) = .ok hi →
      ∃ ea, s.effAddr (.izy zp) = .ok ea ∧ ea.addr.toNat = (hi.toNat * 256 + lo.toNat + s.y.toNat) % 65536 ∧
        (ea.crossed = true ↔ 255 < lo.toNat + s.y.toNat))

/-- R147, R105: an immediate operand is the byte itself; a memory operand is the byte at the effective address, and reading it costs one
extra cycle exactly if the opcode is page-cross sensitive and the index crossed a page. -/
def Obligations.OperandIsTheByteAtTheEffectiveAddress : Prop :=
  (∀ (s : State) (sens : Bool) (v : Byte), s.loadOperand sens (.imm v) = .ok (v, 0)) ∧
  ∀ (s : State) (sens : Bool) (m : MemMode) (ea : EffAddr) (v : Byte), s.effAddr m = .ok ea → s.memRead ea.addr = .ok v →
    ∃ extra, s.loadOperand sens (.mem m) = .ok (v, extra) ∧ extra ≤ 1 ∧
      (extra = 1 ↔ sens = true ∧ ea.crossed = true)

/-! ## Results of the instructions -/

/-- R160 to R162: a load puts the operand in its register and sets Z and N from it. -/
def Obligations.LoadsSetTheirRegisterAndZN : Prop :=
  ∀ (i : Instr) (s : State) (src : Src) (m : Byte) (extra : Nat), i.mode = src.mode →
    s.loadOperand i.row.sensitive src = .ok (m, extra) →
    (i.mnemonic = .lda →
      i.encodedAs [entry 0xA9 .imm 2, entry 0xA5 .zp 3, entry 0xB5 .zpx 4, entry 0xAD .abs 4, entryPlus 0xBD .abx 4,
        entryPlus 0xB9 .aby 4, entry 0xA1 .izx 6, entryPlus 0xB1 .izy 5] ∧
      exec i s = .next (i.retire s extra { s with a := m, p := setZN s.p m })) ∧
    (i.mnemonic = .ldx →
      i.encodedAs [entry 0xA2 .imm 2, entry 0xA6 .zp 3, entry 0xB6 .zpy 4, entry 0xAE .abs 4, entryPlus 0xBE .aby 4] ∧
      exec i s = .next (i.retire s extra { s with x := m, p := setZN s.p m })) ∧
    (i.mnemonic = .ldy →
      i.encodedAs [entry 0xA0 .imm 2, entry 0xA4 .zp 3, entry 0xB4 .zpx 4, entry 0xAC .abs 4, entryPlus 0xBC .abx 4] ∧
      exec i s = .next (i.retire s extra { s with y := m, p := setZN s.p m }))

/-- R163 to R165: a store writes its register at the effective address, with its fixed cycle count, and changes no register or flag. -/
def Obligations.StoresWriteTheirRegister : Prop :=
  ∀ (i : Instr) (s t : State) (m : MemMode) (ea : EffAddr), i.mode = .mem m → s.effAddr m = .ok ea →
    (i.mnemonic = .sta → s.memWrite ea.addr s.a = .ok t →
      i.encodedAs [entry 0x85 .zp 3, entry 0x95 .zpx 4, entry 0x8D .abs 4, entry 0x9D .abx 5, entry 0x99 .aby 5,
        entry 0x81 .izx 6, entry 0x91 .izy 6] ∧
      exec i s = .next (i.retire s 0 t)) ∧
    (i.mnemonic = .stx → s.memWrite ea.addr s.x = .ok t →
      i.encodedAs [entry 0x86 .zp 3, entry 0x96 .zpy 4, entry 0x8E .abs 4] ∧ exec i s = .next (i.retire s 0 t)) ∧
    (i.mnemonic = .sty → s.memWrite ea.addr s.y = .ok t →
      i.encodedAs [entry 0x84 .zp 3, entry 0x94 .zpx 4, entry 0x8C .abs 4] ∧ exec i s = .next (i.retire s 0 t))

/-- R166 to R171, R212 to R215: the register transfers and the register increments and decrements. -/
def Obligations.RegisterTransfersAndSteps : Prop :=
  ∀ s : State,
    let done (u : State) : Host.Outcome State Fault Refusal := .next { u with pc := s.pc + 1, remaining := 1 }
    exec .tax s = done { s with x := s.a, p := setZN s.p s.a } ∧
    exec .tay s = done { s with y := s.a, p := setZN s.p s.a } ∧
    exec .txa s = done { s with a := s.x, p := setZN s.p s.x } ∧
    exec .tya s = done { s with a := s.y, p := setZN s.p s.y } ∧
    exec .tsx s = done { s with x := s.sp, p := setZN s.p s.sp } ∧
    exec .txs s = done { s with sp := s.x } ∧
    exec .inx s = done { s with x := s.x + 1, p := setZN s.p (s.x + 1) } ∧
    exec .iny s = done { s with y := s.y + 1, p := setZN s.p (s.y + 1) } ∧
    exec .dex s = done { s with x := s.x - 1, p := setZN s.p (s.x - 1) } ∧
    exec .dey s = done { s with y := s.y - 1, p := setZN s.p (s.y - 1) } ∧
    encode .tax = [0xAA] ∧ encode .tay = [0xA8] ∧ encode .txa = [0x8A] ∧ encode .tya = [0x98] ∧ encode .tsx = [0xBA] ∧
    encode .txs = [0x9A] ∧ encode .inx = [0xE8] ∧ encode .iny = [0xC8] ∧ encode .dex = [0xCA] ∧ encode .dey = [0x88]

/-- R180, R182: PHA pushes A, PLA pulls A and sets Z and N; SP wraps silently. -/
def Obligations.AccumulatorIsPushedAndPulled : Prop :=
  (∀ s t : State, s.memWrite (stackAddr s.sp) s.a = .ok t →
    encode .pha = [0x48] ∧
    exec .pha s = .next { t with sp := s.sp - 1, pc := s.pc + 1, remaining := 2 }) ∧
  ∀ (s : State) (m : Byte), s.memRead (stackAddr (s.sp + 1)) = .ok m →
    encode .pla = [0x68] ∧
    exec .pla s = .next { s with a := m, p := setZN s.p m, sp := s.sp + 1, pc := s.pc + 1, remaining := 3 }

/-- PHP, opcode 0x08, pushes P with both break bits forced to 1 and leaves P alone; PLP, opcode 0x28, loads all eight bits (R181, R183;
D17, D18, log 18). -/
def Obligations.StatusIsPushedAndPulled : Prop :=
  (∀ s t : State, s.memWrite (stackAddr s.sp) (s.p ||| 0x30) = .ok t →
    encode .php = [0x08] ∧
    exec .php s = .next { t with sp := s.sp - 1, pc := s.pc + 1, remaining := 2 } ∧ t.p = s.p) ∧
  ∀ (s : State) (m : Byte), s.memRead (stackAddr (s.sp + 1)) = .ok m →
    encode .plp = [0x28] ∧
    exec .plp s = .next { s with p := m, sp := s.sp + 1, pc := s.pc + 1, remaining := 3 }

/-- R192 to R195: ORA, AND and EOR combine A with the operand bit by bit and set Z and N; BIT changes only Z (from the conjunction), N and V
(bits 7 and 6 of the operand). -/
def Obligations.LogicCombinesTheAccumulator : Prop :=
  ∀ (i : Instr) (s : State) (src : Src) (m : Byte) (extra : Nat), i.mode = src.mode →
    s.loadOperand i.row.sensitive src = .ok (m, extra) →
    (i.mnemonic = .ora →
      i.encodedAs [entry 0x09 .imm 2, entry 0x05 .zp 3, entry 0x15 .zpx 4, entry 0x0D .abs 4, entryPlus 0x1D .abx 4,
        entryPlus 0x19 .aby 4, entry 0x01 .izx 6, entryPlus 0x11 .izy 5] ∧
      exec i s = .next (i.retire s extra { s with a := s.a ||| m, p := setZN s.p (s.a ||| m) })) ∧
    (i.mnemonic = .and →
      i.encodedAs [entry 0x29 .imm 2, entry 0x25 .zp 3, entry 0x35 .zpx 4, entry 0x2D .abs 4, entryPlus 0x3D .abx 4,
        entryPlus 0x39 .aby 4, entry 0x21 .izx 6, entryPlus 0x31 .izy 5] ∧
      exec i s = .next (i.retire s extra { s with a := s.a &&& m, p := setZN s.p (s.a &&& m) })) ∧
    (i.mnemonic = .eor →
      i.encodedAs [entry 0x49 .imm 2, entry 0x45 .zp 3, entry 0x55 .zpx 4, entry 0x4D .abs 4, entryPlus 0x5D .abx 4,
        entryPlus 0x59 .aby 4, entry 0x41 .izx 6, entryPlus 0x51 .izy 5] ∧
      exec i s = .next (i.retire s extra { s with a := s.a ^^^ m, p := setZN s.p (s.a ^^^ m) })) ∧
    (i.mnemonic = .bit →
      i.encodedAs [entry 0x24 .zp 3, entry 0x2C .abs 4] ∧
      ∃ q : Byte, exec i s = .next (i.retire s extra { s with p := q }) ∧
        (getFlag q .z = true ↔ s.a &&& m = 0) ∧ getFlag q .n = m.getLsbD 7 ∧ getFlag q .v = m.getLsbD 6 ∧
        ∀ f : Flag, f ∉ [.z, .n, .v] → getFlag q f = getFlag s.p f)

/-- R196: ADC is `AddWithCarry` of the operand in every mode; SBC is `AddWithCarry` of its complement (R197; D26). What `AddWithCarry` does is
AddWithCarryIsBinaryAddition and CanonicalOverflowIsSignedOverflow. -/
def Obligations.AddAndSubtractWithCarry : Prop :=
  ∀ (i : Instr) (s : State) (src : Src) (m : Byte) (extra : Nat), i.mode = src.mode →
    s.loadOperand i.row.sensitive src = .ok (m, extra) →
    (i.mnemonic = .adc →
      i.encodedAs [entry 0x69 .imm 2, entry 0x65 .zp 3, entry 0x75 .zpx 4, entry 0x6D .abs 4, entryPlus 0x7D .abx 4,
        entryPlus 0x79 .aby 4, entry 0x61 .izx 6, entryPlus 0x71 .izy 5] ∧
      exec i s = .next (i.retire s extra
        { s with a := adcResult s.a m (getFlag s.p .c), p := adcFlags s.cfg.vRule s.p s.a m })) ∧
    (i.mnemonic = .sbc →
      i.encodedAs [entry 0xE9 .imm 2, entry 0xE5 .zp 3, entry 0xF5 .zpx 4, entry 0xED .abs 4, entryPlus 0xFD .abx 4,
        entryPlus 0xF9 .aby 4, entry 0xE1 .izx 6, entryPlus 0xF1 .izy 5] ∧
      exec i s = .next (i.retire s extra
        { s with
          a := adcResult s.a (m ^^^ 0xFF) (getFlag s.p .c), p := adcFlags s.cfg.vRule s.p s.a (m ^^^ 0xFF) }))

/-- R198 to R200: the compares change P alone, by `Compare` of their register and the operand. -/
def Obligations.ComparesOnlyChangeFlags : Prop :=
  ∀ (i : Instr) (s : State) (src : Src) (m : Byte) (extra : Nat), i.mode = src.mode →
    s.loadOperand i.row.sensitive src = .ok (m, extra) →
    (i.mnemonic = .cmp →
      i.encodedAs [entry 0xC9 .imm 2, entry 0xC5 .zp 3, entry 0xD5 .zpx 4, entry 0xCD .abs 4, entryPlus 0xDD .abx 4,
        entryPlus 0xD9 .aby 4, entry 0xC1 .izx 6, entryPlus 0xD1 .izy 5] ∧
      exec i s = .next (i.retire s extra { s with p := compareFlags s.p s.a m })) ∧
    (i.mnemonic = .cpx →
      i.encodedAs [entry 0xE0 .imm 2, entry 0xE4 .zp 3, entry 0xEC .abs 4] ∧
      exec i s = .next (i.retire s extra { s with p := compareFlags s.p s.x m })) ∧
    (i.mnemonic = .cpy →
      i.encodedAs [entry 0xC0 .imm 2, entry 0xC4 .zp 3, entry 0xCC .abs 4] ∧
      exec i s = .next (i.retire s extra { s with p := compareFlags s.p s.y m }))

/-- R210, R211: INC and DEC replace the byte at the effective address by its successor or predecessor mod 256 and set Z and N from it. -/
def Obligations.MemoryIsIncrementedAndDecremented : Prop :=
  ∀ (i : Instr) (s t : State) (m : MemMode) (ea : EffAddr) (old : Byte), i.mode = .mem m → s.effAddr m = .ok ea →
    s.memRead ea.addr = .ok old →
    (i.mnemonic = .inc → s.memWrite ea.addr (old + 1) = .ok t →
      i.encodedAs [entry 0xE6 .zp 5, entry 0xF6 .zpx 6, entry 0xEE .abs 6, entry 0xFE .abx 7] ∧
      exec i s = .next (i.retire s 0 { t with p := setZN s.p (old + 1) })) ∧
    (i.mnemonic = .dec → s.memWrite ea.addr (old - 1) = .ok t →
      i.encodedAs [entry 0xC6 .zp 5, entry 0xD6 .zpx 6, entry 0xCE .abs 6, entry 0xDE .abx 7] ∧
      exec i s = .next (i.retire s 0 { t with p := setZN s.p (old - 1) }))

/-- R216 to R219: each shift or rotate of the old byte by one bit, as a number, with the carry that leaves it; in mode ACC the result goes to
A, in a memory mode to the effective address; C, Z and N are set and no other flag. -/
def Obligations.ShiftsMoveOneBit : Prop :=
  ∀ (i : Instr) (s : State) (old new : Byte) (out : Bool),
    (i.mnemonic = .asl ∧ new.toNat = old.toNat * 2 % 256 ∧ out = decide (128 ≤ old.toNat) ∨
      i.mnemonic = .lsr ∧ new.toNat = old.toNat / 2 ∧ out = decide (old.toNat % 2 = 1) ∨
      i.mnemonic = .rol ∧ new.toNat = old.toNat * 2 % 256 + (getFlag s.p .c).toNat ∧ out = decide (128 ≤ old.toNat) ∨
      i.mnemonic = .ror ∧ new.toNat = old.toNat / 2 + (getFlag s.p .c).toNat * 128 ∧ out = decide (old.toNat % 2 = 1)) →
    (i.mnemonic = .asl → i.encodedAs
      [entry 0x0A .acc 2, entry 0x06 .zp 5, entry 0x16 .zpx 6, entry 0x0E .abs 6, entry 0x1E .abx 7]) ∧
    (i.mnemonic = .lsr → i.encodedAs
      [entry 0x4A .acc 2, entry 0x46 .zp 5, entry 0x56 .zpx 6, entry 0x4E .abs 6, entry 0x5E .abx 7]) ∧
    (i.mnemonic = .rol → i.encodedAs
      [entry 0x2A .acc 2, entry 0x26 .zp 5, entry 0x36 .zpx 6, entry 0x2E .abs 6, entry 0x3E .abx 7]) ∧
    (i.mnemonic = .ror → i.encodedAs
      [entry 0x6A .acc 2, entry 0x66 .zp 5, entry 0x76 .zpx 6, entry 0x6E .abs 6, entry 0x7E .abx 7]) ∧
    ∃ q : Byte,
      (i.mode = .acc → s.a = old → exec i s = .next (i.retire s 0 { s with a := new, p := q })) ∧
      (∀ m ea t, i.mode = .mem m → s.effAddr m = .ok ea → s.memRead ea.addr = .ok old →
        s.memWrite ea.addr new = .ok t → exec i s = .next (i.retire s 0 { t with p := q })) ∧
      getFlag q .c = out ∧ (getFlag q .z = true ↔ new.toNat = 0) ∧ (getFlag q .n = true ↔ 128 ≤ new.toNat) ∧
      ∀ f : Flag, f ∉ [.c, .z, .n] → getFlag q f = getFlag s.p f

/-- R230, R140, R232: JMP goes to the operand, or to the little-endian word at the pointer, whose high byte is at pointer + 1 mod 65536 also at
the end of a page; RTS pops low byte, then high byte, and goes to that address plus 1 mod 65536. -/
def Obligations.JumpsAndReturnsGoWhereStated : Prop :=
  (∀ (s : State) (addr : Word),
    encode (.jmpAbs addr) = [0x4C, loByte addr, hiByte addr] ∧
    exec (.jmpAbs addr) s = .next { s with pc := addr, remaining := 2 }) ∧
  (∀ (s : State) (ptr : Word) (lo hi : Byte), s.memRead ptr = .ok lo → s.memRead (ptr + 1) = .ok hi →
    encode (.jmpInd ptr) = [0x6C, loByte ptr, hiByte ptr] ∧
    exec (.jmpInd ptr) s = .next { s with pc := BitVec.ofNat 16 (hi.toNat * 256 + lo.toNat), remaining := 4 }) ∧
  ∀ (s : State) (lo hi : Byte), s.memRead (stackAddr (s.sp + 1)) = .ok lo → s.memRead (stackAddr (s.sp + 2)) = .ok hi →
    encode .rts = [0x60] ∧
    exec .rts s =
      .next { s with pc := BitVec.ofNat 16 (hi.toNat * 256 + lo.toNat + 1), sp := s.sp + 2, remaining := 5 }

/-- JSR, opcode 0x20, pushes the high and then the low byte of its opcode's address plus 2 and goes to its operand (R231; D14, D20, log 15). -/
def Obligations.CallPushesTheAddressOfItsLastByte : Prop :=
  ∀ (s t u : State) (addr : Word), s.memWrite (stackAddr s.sp) (hiByte (s.pc + 2)) = .ok t →
    t.memWrite (stackAddr (s.sp - 1)) (loByte (s.pc + 2)) = .ok u →
    encode (.jsr addr) = [0x20, loByte addr, hiByte addr] ∧
    exec (.jsr addr) s = .next { u with sp := s.sp - 2, pc := addr, remaining := 5 }

/-- The eight branches, each by its opcode and displacement byte: on its condition a branch goes to the address after it plus the
signed displacement, mod 65536, for one extra cycle in the page of its opcode and two outside; otherwise it only moves on (R143,
R233 to R241; the page compared is D16, log 17). -/
def Obligations.BranchesFollowTheirFlag : Prop :=
  ∀ (i : Instr) (s : State) (disp opcode : Byte) (f : Flag) (v : Bool), i.mode = .rel disp →
    (i.mnemonic, opcode, f, v) ∈ [(.bpl, 0x10, .n, false), (.bmi, 0x30, .n, true), (.bvc, 0x50, .v, false),
      (.bvs, 0x70, .v, true), (.bcc, 0x90, .c, false), (.bcs, 0xB0, .c, true), (.bne, 0xD0, .z, false),
      (.beq, 0xF0, .z, true)] →
    encode i = [opcode, disp] ∧
    (getFlag s.p f ≠ v → exec i s = .next { s with pc := s.pc + 2, remaining := 1 }) ∧
    (getFlag s.p f = v →
      ∃ t : Word, (t.toNat : Int) = ((s.pc.toNat : Int) + 2 + signed disp) % 65536 ∧
        exec i s = .next { s with pc := t, remaining := if t.toNat / 256 = s.pc.toNat / 256 then 2 else 3 })

/-- R250 to R257: each flag instruction writes its one flag, NOP writes none; every register and every byte of memory stays. -/
def Obligations.FlagInstructionsWriteOneFlag : Prop :=
  (∀ (i : Instr) (s : State) (opcode : Byte) (f : Flag) (v : Bool),
    (i, opcode, f, v) ∈ [(Instr.clc, 0x18, .c, false), (.sec, 0x38, .c, true), (.cli, 0x58, .i, false),
      (.sei, 0x78, .i, true), (.cld, 0xD8, .d, false), (.sed, 0xF8, .d, true), (.clv, 0xB8, .v, false)] →
    encode i = [opcode] ∧
    ∃ q : Byte, exec i s = .next { s with p := q, pc := s.pc + 1, remaining := 1 } ∧ getFlag q f = v ∧
      ∀ g : Flag, g ≠ f → getFlag q g = getFlag s.p g) ∧
  ∀ s : State, encode .nop = [0xEA] ∧ exec .nop s = .next { s with pc := s.pc + 1, remaining := 1 }

/-- Taking the software interrupt, BRK, opcode 0x00: the address of BRK plus 2 is pushed, high byte first, then P with both break bits 1; I is set and nothing
else of P; PC is the word at 0xFFFE as it is after the pushes (R258, R277; D14, D17, logs 15 and 18). -/
def Obligations.BreakTakesTheSoftwareInterrupt : Prop :=
  ∀ (s t u w : State) (lo hi : Byte), s.memWrite (stackAddr s.sp) (hiByte (s.pc + 2)) = .ok t →
    t.memWrite (stackAddr (s.sp - 1)) (loByte (s.pc + 2)) = .ok u →
    u.memWrite (stackAddr (s.sp - 2)) (s.p ||| 0x30) = .ok w →
    w.memRead 0xFFFE = .ok lo → w.memRead 0xFFFF = .ok hi →
    encode .brk = [0x00] ∧
    exec .brk s =
      .next { w with
        p := s.p ||| 0x04, sp := s.sp - 3, pc := BitVec.ofNat 16 (hi.toNat * 256 + lo.toNat), remaining := 6 }

/-- Return from the interrupt, RTI, opcode 0x40: P whole, then PC low and high, used unmodified (R259, R278; D18, log 18). -/
def Obligations.ReturnFromInterruptRestoresStatusAndPc : Prop :=
  ∀ (s : State) (q lo hi : Byte), s.memRead (stackAddr (s.sp + 1)) = .ok q →
    s.memRead (stackAddr (s.sp + 2)) = .ok lo → s.memRead (stackAddr (s.sp + 3)) = .ok hi →
    encode .rti = [0x40] ∧
    exec .rti s =
      .next { s with p := q, sp := s.sp + 3, pc := BitVec.ofNat 16 (hi.toNat * 256 + lo.toNat), remaining := 5 }

/-- An access that lies nowhere ends the instruction: PC has advanced, the fault is latched, `remaining_cycles` keeps its value, no later
step runs and what was done before the access remains (R145, R272; D12, log 1). Where it is the first operand, pointer or stack
access, that is nothing but the SP a pull has incremented; where it is a later one: the bytes pushed before it and their SP (JSR, BRK),
I and all three pushed bytes at a vector read (BRK), the SP of every pull begun (RTS, RTI), P pulled (RTI), nothing (JMP indirect). -/
def Obligations.FaultingAccessStopsTheInstruction : Prop :=
  ∀ (i : Instr) (s : State) (f : Fault),
    let stopped : Host.Outcome State Fault Refusal :=
      .next { s with pc := s.pc + BitVec.ofNat 16 i.length, fault := some f }
    (∀ src : Src, i.mode = src.mode →
      i.mnemonic ∈ [.lda, .ldx, .ldy, .ora, .and, .eor, .bit, .adc, .sbc, .cmp, .cpx, .cpy] →
      s.loadOperand i.row.sensitive src = .error f → exec i s = stopped) ∧
    (∀ m : MemMode, i.mode = .mem m → i.mnemonic ∈ [.sta, .stx, .sty, .inc, .dec, .asl, .lsr, .rol, .ror] →
      s.effAddr m = .error f → exec i s = stopped) ∧
    (∀ m ea, i.mode = .mem m → s.effAddr m = .ok ea →
      (i.mnemonic ∈ [.inc, .dec, .asl, .lsr, .rol, .ror] → s.memRead ea.addr = .error f → exec i s = stopped) ∧
      (i.mnemonic ∈ [.sta, .stx, .sty] → (∀ v, s.memWrite ea.addr v = .error f) → exec i s = stopped)) ∧
    (i.mnemonic ∈ [.pha, .php, .jsr, .brk] → (∀ v, s.memWrite (stackAddr s.sp) v = .error f) → exec i s = stopped) ∧
    (i.mnemonic ∈ [.pla, .plp, .rts, .rti] → s.memRead (stackAddr (s.sp + 1)) = .error f →
      exec i s = .next { s with pc := s.pc + BitVec.ofNat 16 i.length, sp := s.sp + 1, fault := some f }) ∧
    (∀ ptr, i.mode = .ind ptr → s.memRead ptr = .error f → exec i s = stopped) ∧
    (∀ ptr lo, i.mode = .ind ptr → s.memRead ptr = .ok lo → s.memRead (ptr + 1) = .error f → exec i s = stopped) ∧
    (∀ addr t, s.memWrite (stackAddr s.sp) (hiByte (s.pc + 2)) = .ok t →
      t.memWrite (stackAddr (s.sp - 1)) (loByte (s.pc + 2)) = .error f →
      exec (.jsr addr) s = .next { t with sp := s.sp - 1, pc := s.pc + 3, fault := some f }) ∧
    (∀ t, s.memWrite (stackAddr s.sp) (hiByte (s.pc + 2)) = .ok t →
      (t.memWrite (stackAddr (s.sp - 1)) (loByte (s.pc + 2)) = .error f →
        exec .brk s = .next { t with sp := s.sp - 1, pc := s.pc + 1, fault := some f }) ∧
      ∀ u, t.memWrite (stackAddr (s.sp - 1)) (loByte (s.pc + 2)) = .ok u →
        (u.memWrite (stackAddr (s.sp - 2)) (s.p ||| 0x30) = .error f →
          exec .brk s = .next { u with sp := s.sp - 2, pc := s.pc + 1, fault := some f }) ∧
        ∀ w, u.memWrite (stackAddr (s.sp - 2)) (s.p ||| 0x30) = .ok w →
          (w.memRead 0xFFFE = .error f ∨ (∃ lo, w.memRead 0xFFFE = .ok lo) ∧ w.memRead 0xFFFF = .error f) →
          exec .brk s = .next { w with p := s.p ||| 0x04, sp := s.sp - 3, pc := s.pc + 1, fault := some f }) ∧
    (∀ lo, s.memRead (stackAddr (s.sp + 1)) = .ok lo → s.memRead (stackAddr (s.sp + 2)) = .error f →
      exec .rts s = .next { s with sp := s.sp + 2, pc := s.pc + 1, fault := some f }) ∧
    ∀ q, s.memRead (stackAddr (s.sp + 1)) = .ok q →
      (s.memRead (stackAddr (s.sp + 2)) = .error f →
        exec .rti s = .next { s with p := q, sp := s.sp + 2, pc := s.pc + 1, fault := some f }) ∧
      ∀ lo, s.memRead (stackAddr (s.sp + 2)) = .ok lo → s.memRead (stackAddr (s.sp + 3)) = .error f →
        exec .rti s = .next { s with p := q, sp := s.sp + 3, pc := s.pc + 1, fault := some f }

/-! ## Round trips -/

/-- Call, then return: PC is just past the three-byte call, for every PC, and SP is back, whenever the two stack bytes are in the backing
store (R232; C8). -/
def Obligations.CallThenReturnComesBack : Prop :=
  ∀ (s : State) (addr : Word), Memory.wf s.mem = true → s.fault = none → s.stored (stackAddr s.sp) →
    s.stored (stackAddr (s.sp - 1)) →
    ∃ t u : State, exec (.jsr addr) s = .next t ∧ exec .rts t = .next u ∧ u.pc = s.pc + 3 ∧ u.sp = s.sp ∧
      u.p = s.p ∧ u.a = s.a ∧ u.x = s.x ∧ u.y = s.y ∧ u.fault = none

/-- Software interrupt, then return: PC is two past BRK's opcode, SP is back, every flag is as before and both break bits are 1, whenever the
three stack bytes are in the backing store and the vector can be read (R259). -/
def Obligations.InterruptThenReturnComesBack : Prop :=
  ∀ s : State, Memory.wf s.mem = true → s.fault = none → s.stored (stackAddr s.sp) → s.stored (stackAddr (s.sp - 1)) →
    s.stored (stackAddr (s.sp - 2)) → s.stored 0xFFFE → s.stored 0xFFFF →
    ∃ t u : State, exec .brk s = .next t ∧ exec .rti t = .next u ∧ u.pc = s.pc + 2 ∧ u.sp = s.sp ∧ u.p = s.p ||| 0x30 ∧
      u.a = s.a ∧ u.x = s.x ∧ u.y = s.y ∧ u.fault = none

/-- Push status, then pull status: every flag is reproduced except both break bits, which come back as 1 (R183; D17, D18). -/
def Obligations.PushThenPullStatusForcesBreakBits : Prop :=
  ∀ s : State, Memory.wf s.mem = true → s.fault = none → s.stored (stackAddr s.sp) →
    ∃ t u : State, exec .php s = .next t ∧ exec .plp t = .next u ∧ u.sp = s.sp ∧ getFlag u.p .bh = true ∧
      getFlag u.p .bl = true ∧ (∀ f : Flag, f ≠ .bh → f ≠ .bl → getFlag u.p f = getFlag s.p f) ∧ u.a = s.a ∧
      u.fault = none
end

