-- ==== Sys2Proof/Laws/Memory.lean ====
section
/-! SUPPORT. The backing store: read after write, and the canonical form that every operation keeps. -/

namespace Sys2Proof.Machine.Memory

/-- An address below the canonical form's lower bound reads as an unlisted one. -/
theorem get_of_lt {m : Memory} {lo addr : Nat} (h : wfFrom lo m = true) (hlt : addr < lo) :
    get m addr = unlisted := by
  induction m generalizing lo with
  | nil => rfl
  | cons c rest ih =>
    obtain ⟨k, v⟩ := c
    simp only [wfFrom, Bool.and_eq_true, decide_eq_true_eq] at h
    have hk : k ≠ addr := by omega
    simp only [get, if_neg hk]
    exact ih h.2 (by omega)

/-- A lower bound may be lowered. -/
theorem wfFrom_mono {m : Memory} {lo lo' : Nat} (hle : lo' ≤ lo) (h : wfFrom lo m = true) : wfFrom lo' m = true := by
  cases m with
  | nil => rfl
  | cons c rest =>
    simp only [wfFrom, Bool.and_eq_true, decide_eq_true_eq] at h ⊢
    exact ⟨⟨by omega, h.1.2⟩, h.2⟩

/-- A write keeps the canonical form. -/
theorem put_wfFrom {m : Memory} {lo addr : Nat} (v : Byte) (h : wfFrom lo m = true) (hle : lo ≤ addr) :
    wfFrom lo (put m addr v) = true := by
  induction m generalizing lo with
  | nil =>
    unfold put
    split <;> simp_all [wfFrom]
  | cons c rest ih =>
    obtain ⟨k, w⟩ := c
    have hc := h
    simp only [wfFrom, Bool.and_eq_true, decide_eq_true_eq] at hc
    unfold put
    split
    · split
      · exact h
      · simp only [wfFrom, Bool.and_eq_true, decide_eq_true_eq]
        exact ⟨⟨hle, ‹_›⟩, ⟨by omega, hc.1.2⟩, hc.2⟩
    · split
      · split
        · exact wfFrom_mono (by omega) hc.2
        · simp only [wfFrom, Bool.and_eq_true, decide_eq_true_eq]
          exact ⟨⟨hle, ‹_›⟩, by simpa [‹addr = k›] using hc.2⟩
      · simp only [wfFrom, Bool.and_eq_true, decide_eq_true_eq]
        exact ⟨hc.1, ih hc.2 (by omega)⟩

/-- A write keeps the canonical form of a store. -/
theorem put_wf {m : Memory} (addr : Nat) (v : Byte) (h : wf m = true) : wf (put m addr v) = true :=
  put_wfFrom v h (Nat.zero_le _)

/-- A byte just written reads as written. -/
theorem get_put_same_from {m : Memory} {lo addr : Nat} (v : Byte) (h : wfFrom lo m = true) :
    get (put m addr v) addr = v := by
  induction m generalizing lo with
  | nil =>
    unfold put
    split <;> simp_all [get]
  | cons c rest ih =>
    obtain ⟨k, w⟩ := c
    have hc := h
    simp only [wfFrom, Bool.and_eq_true, decide_eq_true_eq] at hc
    unfold put
    split
    · split
      · have hk : k ≠ addr := by omega
        simp only [get, if_neg hk]
        rw [get_of_lt hc.2 (by omega)]
        exact ‹v = _›.symm
      · simp [get]
    · split
      · split
        · rw [get_of_lt hc.2 (by omega)]
          exact ‹v = _›.symm
        · simp [get]
      · have hk : k ≠ addr := by omega
        simp only [get, if_neg hk]
        exact ih hc.2

/-- A byte just written reads as written. -/
theorem get_put_same {m : Memory} (addr : Nat) (v : Byte) (h : wf m = true) : get (put m addr v) addr = v :=
  get_put_same_from v h

/-- A write leaves every other address alone, whatever the store. -/
theorem get_put_other (m : Memory) {addr other : Nat} (v : Byte) (hne : other ≠ addr) :
    get (put m addr v) other = get m other := by
  induction m with
  | nil =>
    unfold put
    split <;> simp [get, hne.symm]
  | cons c rest ih =>
    obtain ⟨k, w⟩ := c
    unfold put
    split
    · split <;> simp [get, hne.symm]
    · split
      · subst_vars
        split <;> simp [get, hne.symm]
      · simp only [get, ih]

theorem below_cons {k bound : Nat} {w : Byte} {rest : Memory} :
    below ((k, w) :: rest) bound = true ↔ k < bound ∧ below rest bound = true := by
  simp [below]

/-- A write below the bound keeps the store within it. -/
theorem put_below {m : Memory} {addr bound : Nat} (v : Byte) (h : below m bound = true) (hlt : addr < bound) :
    below (put m addr v) bound = true := by
  induction m with
  | nil =>
    unfold put
    split
    · exact h
    · exact below_cons.mpr ⟨hlt, h⟩
  | cons c rest ih =>
    obtain ⟨k, w⟩ := c
    obtain ⟨hk, hrest⟩ := below_cons.mp h
    unfold put
    split
    · split
      · exact h
      · exact below_cons.mpr ⟨hlt, h⟩
    · split
      · split
        · exact hrest
        · exact below_cons.mpr ⟨hlt, hrest⟩
      · exact below_cons.mpr ⟨hk, ih hrest⟩

end Sys2Proof.Machine.Memory
end

