-- ==== Sys2Proof/Laws/State.lean ====
section
/-! SUPPORT. What each update of the state does to each field, true by definition: no later proof unfolds an update. -/

namespace Sys2Proof.Machine.State

/-! ### setZN: Z and N from a byte -/

@[simp] theorem setZN_cfg (s : State) (v : Byte) : (s.setZN v).cfg = s.cfg := rfl
@[simp] theorem setZN_a (s : State) (v : Byte) : (s.setZN v).a = s.a := rfl
@[simp] theorem setZN_x (s : State) (v : Byte) : (s.setZN v).x = s.x := rfl
@[simp] theorem setZN_y (s : State) (v : Byte) : (s.setZN v).y = s.y := rfl
@[simp] theorem setZN_sp (s : State) (v : Byte) : (s.setZN v).sp = s.sp := rfl
@[simp] theorem setZN_p (s : State) (v : Byte) : (s.setZN v).p = Machine.setZN s.p v := rfl
@[simp] theorem setZN_pc (s : State) (v : Byte) : (s.setZN v).pc = s.pc := rfl
@[simp] theorem setZN_remaining (s : State) (v : Byte) : (s.setZN v).remaining = s.remaining := rfl
@[simp] theorem setZN_suspended (s : State) (v : Byte) : (s.setZN v).suspended = s.suspended := rfl
@[simp] theorem setZN_fault (s : State) (v : Byte) : (s.setZN v).fault = s.fault := rfl
@[simp] theorem setZN_div (s : State) (v : Byte) : (s.setZN v).div = s.div := rfl
@[simp] theorem setZN_hpos (s : State) (v : Byte) : (s.setZN v).hpos = s.hpos := rfl
@[simp] theorem setZN_wreg (s : State) (v : Byte) : (s.setZN v).wreg = s.wreg := rfl
@[simp] theorem setZN_rreg (s : State) (v : Byte) : (s.setZN v).rreg = s.rreg := rfl
@[simp] theorem setZN_mem (s : State) (v : Byte) : (s.setZN v).mem = s.mem := rfl
@[simp] theorem setZN_inputs (s : State) (v : Byte) : (s.setZN v).inputs = s.inputs := rfl

/-! ### loadA: A and its flags -/

@[simp] theorem loadA_cfg (s : State) (v : Byte) : (s.loadA v).cfg = s.cfg := rfl
@[simp] theorem loadA_a (s : State) (v : Byte) : (s.loadA v).a = v := rfl
@[simp] theorem loadA_x (s : State) (v : Byte) : (s.loadA v).x = s.x := rfl
@[simp] theorem loadA_y (s : State) (v : Byte) : (s.loadA v).y = s.y := rfl
@[simp] theorem loadA_sp (s : State) (v : Byte) : (s.loadA v).sp = s.sp := rfl
@[simp] theorem loadA_p (s : State) (v : Byte) : (s.loadA v).p = Machine.setZN s.p v := rfl
@[simp] theorem loadA_pc (s : State) (v : Byte) : (s.loadA v).pc = s.pc := rfl
@[simp] theorem loadA_remaining (s : State) (v : Byte) : (s.loadA v).remaining = s.remaining := rfl
@[simp] theorem loadA_suspended (s : State) (v : Byte) : (s.loadA v).suspended = s.suspended := rfl
@[simp] theorem loadA_fault (s : State) (v : Byte) : (s.loadA v).fault = s.fault := rfl
@[simp] theorem loadA_div (s : State) (v : Byte) : (s.loadA v).div = s.div := rfl
@[simp] theorem loadA_hpos (s : State) (v : Byte) : (s.loadA v).hpos = s.hpos := rfl
@[simp] theorem loadA_wreg (s : State) (v : Byte) : (s.loadA v).wreg = s.wreg := rfl
@[simp] theorem loadA_rreg (s : State) (v : Byte) : (s.loadA v).rreg = s.rreg := rfl
@[simp] theorem loadA_mem (s : State) (v : Byte) : (s.loadA v).mem = s.mem := rfl
@[simp] theorem loadA_inputs (s : State) (v : Byte) : (s.loadA v).inputs = s.inputs := rfl

/-! ### loadX: X and its flags -/

@[simp] theorem loadX_cfg (s : State) (v : Byte) : (s.loadX v).cfg = s.cfg := rfl
@[simp] theorem loadX_a (s : State) (v : Byte) : (s.loadX v).a = s.a := rfl
@[simp] theorem loadX_x (s : State) (v : Byte) : (s.loadX v).x = v := rfl
@[simp] theorem loadX_y (s : State) (v : Byte) : (s.loadX v).y = s.y := rfl
@[simp] theorem loadX_sp (s : State) (v : Byte) : (s.loadX v).sp = s.sp := rfl
@[simp] theorem loadX_p (s : State) (v : Byte) : (s.loadX v).p = Machine.setZN s.p v := rfl
@[simp] theorem loadX_pc (s : State) (v : Byte) : (s.loadX v).pc = s.pc := rfl
@[simp] theorem loadX_remaining (s : State) (v : Byte) : (s.loadX v).remaining = s.remaining := rfl
@[simp] theorem loadX_suspended (s : State) (v : Byte) : (s.loadX v).suspended = s.suspended := rfl
@[simp] theorem loadX_fault (s : State) (v : Byte) : (s.loadX v).fault = s.fault := rfl
@[simp] theorem loadX_div (s : State) (v : Byte) : (s.loadX v).div = s.div := rfl
@[simp] theorem loadX_hpos (s : State) (v : Byte) : (s.loadX v).hpos = s.hpos := rfl
@[simp] theorem loadX_wreg (s : State) (v : Byte) : (s.loadX v).wreg = s.wreg := rfl
@[simp] theorem loadX_rreg (s : State) (v : Byte) : (s.loadX v).rreg = s.rreg := rfl
@[simp] theorem loadX_mem (s : State) (v : Byte) : (s.loadX v).mem = s.mem := rfl
@[simp] theorem loadX_inputs (s : State) (v : Byte) : (s.loadX v).inputs = s.inputs := rfl

/-! ### loadY: Y and its flags -/

@[simp] theorem loadY_cfg (s : State) (v : Byte) : (s.loadY v).cfg = s.cfg := rfl
@[simp] theorem loadY_a (s : State) (v : Byte) : (s.loadY v).a = s.a := rfl
@[simp] theorem loadY_x (s : State) (v : Byte) : (s.loadY v).x = s.x := rfl
@[simp] theorem loadY_y (s : State) (v : Byte) : (s.loadY v).y = v := rfl
@[simp] theorem loadY_sp (s : State) (v : Byte) : (s.loadY v).sp = s.sp := rfl
@[simp] theorem loadY_p (s : State) (v : Byte) : (s.loadY v).p = Machine.setZN s.p v := rfl
@[simp] theorem loadY_pc (s : State) (v : Byte) : (s.loadY v).pc = s.pc := rfl
@[simp] theorem loadY_remaining (s : State) (v : Byte) : (s.loadY v).remaining = s.remaining := rfl
@[simp] theorem loadY_suspended (s : State) (v : Byte) : (s.loadY v).suspended = s.suspended := rfl
@[simp] theorem loadY_fault (s : State) (v : Byte) : (s.loadY v).fault = s.fault := rfl
@[simp] theorem loadY_div (s : State) (v : Byte) : (s.loadY v).div = s.div := rfl
@[simp] theorem loadY_hpos (s : State) (v : Byte) : (s.loadY v).hpos = s.hpos := rfl
@[simp] theorem loadY_wreg (s : State) (v : Byte) : (s.loadY v).wreg = s.wreg := rfl
@[simp] theorem loadY_rreg (s : State) (v : Byte) : (s.loadY v).rreg = s.rreg := rfl
@[simp] theorem loadY_mem (s : State) (v : Byte) : (s.loadY v).mem = s.mem := rfl
@[simp] theorem loadY_inputs (s : State) (v : Byte) : (s.loadY v).inputs = s.inputs := rfl

/-! ### putFlag: one flag -/

@[simp] theorem putFlag_cfg (s : State) (f : Flag) (b : Bool) : (s.putFlag f b).cfg = s.cfg := rfl
@[simp] theorem putFlag_a (s : State) (f : Flag) (b : Bool) : (s.putFlag f b).a = s.a := rfl
@[simp] theorem putFlag_x (s : State) (f : Flag) (b : Bool) : (s.putFlag f b).x = s.x := rfl
@[simp] theorem putFlag_y (s : State) (f : Flag) (b : Bool) : (s.putFlag f b).y = s.y := rfl
@[simp] theorem putFlag_sp (s : State) (f : Flag) (b : Bool) : (s.putFlag f b).sp = s.sp := rfl
@[simp] theorem putFlag_p (s : State) (f : Flag) (b : Bool) : (s.putFlag f b).p = setFlag s.p f b := rfl
@[simp] theorem putFlag_pc (s : State) (f : Flag) (b : Bool) : (s.putFlag f b).pc = s.pc := rfl
@[simp] theorem putFlag_remaining (s : State) (f : Flag) (b : Bool) : (s.putFlag f b).remaining = s.remaining := rfl
@[simp] theorem putFlag_suspended (s : State) (f : Flag) (b : Bool) : (s.putFlag f b).suspended = s.suspended := rfl
@[simp] theorem putFlag_fault (s : State) (f : Flag) (b : Bool) : (s.putFlag f b).fault = s.fault := rfl
@[simp] theorem putFlag_div (s : State) (f : Flag) (b : Bool) : (s.putFlag f b).div = s.div := rfl
@[simp] theorem putFlag_hpos (s : State) (f : Flag) (b : Bool) : (s.putFlag f b).hpos = s.hpos := rfl
@[simp] theorem putFlag_wreg (s : State) (f : Flag) (b : Bool) : (s.putFlag f b).wreg = s.wreg := rfl
@[simp] theorem putFlag_rreg (s : State) (f : Flag) (b : Bool) : (s.putFlag f b).rreg = s.rreg := rfl
@[simp] theorem putFlag_mem (s : State) (f : Flag) (b : Bool) : (s.putFlag f b).mem = s.mem := rfl
@[simp] theorem putFlag_inputs (s : State) (f : Flag) (b : Bool) : (s.putFlag f b).inputs = s.inputs := rfl

/-! ### addWithCarry: AddWithCarry -/

@[simp] theorem addWithCarry_cfg (s : State) (m : Byte) : (s.addWithCarry m).cfg = s.cfg := rfl
@[simp] theorem addWithCarry_a (s : State) (m : Byte) : (s.addWithCarry m).a = adcResult s.a m (getFlag s.p .c) := rfl
@[simp] theorem addWithCarry_x (s : State) (m : Byte) : (s.addWithCarry m).x = s.x := rfl
@[simp] theorem addWithCarry_y (s : State) (m : Byte) : (s.addWithCarry m).y = s.y := rfl
@[simp] theorem addWithCarry_sp (s : State) (m : Byte) : (s.addWithCarry m).sp = s.sp := rfl
@[simp] theorem addWithCarry_p (s : State) (m : Byte) : (s.addWithCarry m).p = adcFlags s.cfg.vRule s.p s.a m := rfl
@[simp] theorem addWithCarry_pc (s : State) (m : Byte) : (s.addWithCarry m).pc = s.pc := rfl
@[simp] theorem addWithCarry_remaining (s : State) (m : Byte) : (s.addWithCarry m).remaining = s.remaining := rfl
@[simp] theorem addWithCarry_suspended (s : State) (m : Byte) : (s.addWithCarry m).suspended = s.suspended := rfl
@[simp] theorem addWithCarry_fault (s : State) (m : Byte) : (s.addWithCarry m).fault = s.fault := rfl
@[simp] theorem addWithCarry_div (s : State) (m : Byte) : (s.addWithCarry m).div = s.div := rfl
@[simp] theorem addWithCarry_hpos (s : State) (m : Byte) : (s.addWithCarry m).hpos = s.hpos := rfl
@[simp] theorem addWithCarry_wreg (s : State) (m : Byte) : (s.addWithCarry m).wreg = s.wreg := rfl
@[simp] theorem addWithCarry_rreg (s : State) (m : Byte) : (s.addWithCarry m).rreg = s.rreg := rfl
@[simp] theorem addWithCarry_mem (s : State) (m : Byte) : (s.addWithCarry m).mem = s.mem := rfl
@[simp] theorem addWithCarry_inputs (s : State) (m : Byte) : (s.addWithCarry m).inputs = s.inputs := rfl

/-! ### latchWreg: a write-side latch -/

@[simp] theorem latchWreg_cfg (s : State) (o : Nat) (v : Byte) : (s.latchWreg o v).cfg = s.cfg := rfl
@[simp] theorem latchWreg_a (s : State) (o : Nat) (v : Byte) : (s.latchWreg o v).a = s.a := rfl
@[simp] theorem latchWreg_x (s : State) (o : Nat) (v : Byte) : (s.latchWreg o v).x = s.x := rfl
@[simp] theorem latchWreg_y (s : State) (o : Nat) (v : Byte) : (s.latchWreg o v).y = s.y := rfl
@[simp] theorem latchWreg_sp (s : State) (o : Nat) (v : Byte) : (s.latchWreg o v).sp = s.sp := rfl
@[simp] theorem latchWreg_p (s : State) (o : Nat) (v : Byte) : (s.latchWreg o v).p = s.p := rfl
@[simp] theorem latchWreg_pc (s : State) (o : Nat) (v : Byte) : (s.latchWreg o v).pc = s.pc := rfl
@[simp] theorem latchWreg_remaining (s : State) (o : Nat) (v : Byte) : (s.latchWreg o v).remaining = s.remaining := rfl
@[simp] theorem latchWreg_suspended (s : State) (o : Nat) (v : Byte) : (s.latchWreg o v).suspended = s.suspended := rfl
@[simp] theorem latchWreg_fault (s : State) (o : Nat) (v : Byte) : (s.latchWreg o v).fault = s.fault := rfl
@[simp] theorem latchWreg_div (s : State) (o : Nat) (v : Byte) : (s.latchWreg o v).div = s.div := rfl
@[simp] theorem latchWreg_hpos (s : State) (o : Nat) (v : Byte) : (s.latchWreg o v).hpos = s.hpos := rfl
@[simp] theorem latchWreg_wreg (s : State) (o : Nat) (v : Byte) : (s.latchWreg o v).wreg = s.wreg.setIfInBounds o v := rfl
@[simp] theorem latchWreg_rreg (s : State) (o : Nat) (v : Byte) : (s.latchWreg o v).rreg = s.rreg := rfl
@[simp] theorem latchWreg_mem (s : State) (o : Nat) (v : Byte) : (s.latchWreg o v).mem = s.mem := rfl
@[simp] theorem latchWreg_inputs (s : State) (o : Nat) (v : Byte) : (s.latchWreg o v).inputs = s.inputs := rfl

/-! ### strobe: the strobes -/

@[simp] theorem strobe_cfg (s : State) (o : Nat) : (s.strobe o).cfg = s.cfg := rfl
@[simp] theorem strobe_a (s : State) (o : Nat) : (s.strobe o).a = s.a := rfl
@[simp] theorem strobe_x (s : State) (o : Nat) : (s.strobe o).x = s.x := rfl
@[simp] theorem strobe_y (s : State) (o : Nat) : (s.strobe o).y = s.y := rfl
@[simp] theorem strobe_sp (s : State) (o : Nat) : (s.strobe o).sp = s.sp := rfl
@[simp] theorem strobe_p (s : State) (o : Nat) : (s.strobe o).p = s.p := rfl
@[simp] theorem strobe_pc (s : State) (o : Nat) : (s.strobe o).pc = s.pc := rfl
@[simp] theorem strobe_remaining (s : State) (o : Nat) : (s.strobe o).remaining = s.remaining := rfl
@[simp] theorem strobe_suspended (s : State) (o : Nat) : (s.strobe o).suspended = (s.suspended || o == s.cfg.wsyncOffset) := rfl
@[simp] theorem strobe_fault (s : State) (o : Nat) : (s.strobe o).fault = s.fault := rfl
@[simp] theorem strobe_div (s : State) (o : Nat) : (s.strobe o).div = s.div := rfl
@[simp] theorem strobe_hpos (s : State) (o : Nat) : (s.strobe o).hpos = s.hpos := rfl
@[simp] theorem strobe_wreg (s : State) (o : Nat) : (s.strobe o).wreg = s.wreg := rfl
@[simp] theorem strobe_rreg (s : State) (o : Nat) : (s.strobe o).rreg = if o == s.cfg.cxclrOffset then clearCollisions s.rreg else s.rreg := rfl
@[simp] theorem strobe_mem (s : State) (o : Nat) : (s.strobe o).mem = s.mem := rfl
@[simp] theorem strobe_inputs (s : State) (o : Nat) : (s.strobe o).inputs = s.inputs := rfl

/-! ### flush: flush -/

@[simp] theorem flush_cfg (s : State) : (s.flush).cfg = s.cfg := rfl
@[simp] theorem flush_a (s : State) : (s.flush).a = s.a := rfl
@[simp] theorem flush_x (s : State) : (s.flush).x = s.x := rfl
@[simp] theorem flush_y (s : State) : (s.flush).y = s.y := rfl
@[simp] theorem flush_sp (s : State) : (s.flush).sp = s.sp := rfl
@[simp] theorem flush_p (s : State) : (s.flush).p = s.p := rfl
@[simp] theorem flush_pc (s : State) : (s.flush).pc = s.pc := rfl
@[simp] theorem flush_remaining (s : State) : (s.flush).remaining = s.remaining := rfl
@[simp] theorem flush_suspended (s : State) : (s.flush).suspended = s.suspended := rfl
@[simp] theorem flush_fault (s : State) : (s.flush).fault = s.fault := rfl
@[simp] theorem flush_div (s : State) : (s.flush).div = s.div := rfl
@[simp] theorem flush_hpos (s : State) : (s.flush).hpos = s.hpos := rfl
@[simp] theorem flush_wreg (s : State) : (s.flush).wreg = s.wreg := rfl
@[simp] theorem flush_rreg (s : State) : (s.flush).rreg = s.rreg := rfl
@[simp] theorem flush_mem (s : State) : (s.flush).mem = [] := rfl
@[simp] theorem flush_inputs (s : State) : (s.flush).inputs = s.inputs := rfl

/-! ### count: the counters -/

@[simp] theorem count_cfg (s : State) : (s.count).cfg = s.cfg := rfl
@[simp] theorem count_a (s : State) : (s.count).a = s.a := rfl
@[simp] theorem count_x (s : State) : (s.count).x = s.x := rfl
@[simp] theorem count_y (s : State) : (s.count).y = s.y := rfl
@[simp] theorem count_sp (s : State) : (s.count).sp = s.sp := rfl
@[simp] theorem count_p (s : State) : (s.count).p = s.p := rfl
@[simp] theorem count_pc (s : State) : (s.count).pc = s.pc := rfl
@[simp] theorem count_remaining (s : State) : (s.count).remaining = s.remaining := rfl
@[simp] theorem count_suspended (s : State) : (s.count).suspended = (s.suspended && (s.hpos + 1) % s.cfg.lineLen != s.cfg.hblankStart) := rfl
@[simp] theorem count_fault (s : State) : (s.count).fault = s.fault := rfl
@[simp] theorem count_div (s : State) : (s.count).div = (s.div + 1) % clkRatio := rfl
@[simp] theorem count_hpos (s : State) : (s.count).hpos = (s.hpos + 1) % s.cfg.lineLen := rfl
@[simp] theorem count_wreg (s : State) : (s.count).wreg = s.wreg := rfl
@[simp] theorem count_rreg (s : State) : (s.count).rreg = s.rreg := rfl
@[simp] theorem count_mem (s : State) : (s.count).mem = s.mem := rfl
@[simp] theorem count_inputs (s : State) : (s.count).inputs = s.inputs := rfl

/-! ### The environment's changes -/

@[simp] theorem takeInputs_cfg (s : State) : s.takeInputs.cfg = s.cfg := by
  unfold takeInputs; split <;> rfl
@[simp] theorem takeInputs_a (s : State) : s.takeInputs.a = s.a := by
  unfold takeInputs; split <;> rfl
@[simp] theorem takeInputs_x (s : State) : s.takeInputs.x = s.x := by
  unfold takeInputs; split <;> rfl
@[simp] theorem takeInputs_y (s : State) : s.takeInputs.y = s.y := by
  unfold takeInputs; split <;> rfl
@[simp] theorem takeInputs_sp (s : State) : s.takeInputs.sp = s.sp := by
  unfold takeInputs; split <;> rfl
@[simp] theorem takeInputs_p (s : State) : s.takeInputs.p = s.p := by
  unfold takeInputs; split <;> rfl
@[simp] theorem takeInputs_pc (s : State) : s.takeInputs.pc = s.pc := by
  unfold takeInputs; split <;> rfl
@[simp] theorem takeInputs_remaining (s : State) : s.takeInputs.remaining = s.remaining := by
  unfold takeInputs; split <;> rfl
@[simp] theorem takeInputs_suspended (s : State) : s.takeInputs.suspended = s.suspended := by
  unfold takeInputs; split <;> rfl
@[simp] theorem takeInputs_fault (s : State) : s.takeInputs.fault = s.fault := by
  unfold takeInputs; split <;> rfl
@[simp] theorem takeInputs_div (s : State) : s.takeInputs.div = s.div := by
  unfold takeInputs; split <;> rfl
@[simp] theorem takeInputs_hpos (s : State) : s.takeInputs.hpos = s.hpos := by
  unfold takeInputs; split <;> rfl
@[simp] theorem takeInputs_wreg (s : State) : s.takeInputs.wreg = s.wreg := by
  unfold takeInputs; split <;> rfl
@[simp] theorem takeInputs_mem (s : State) : s.takeInputs.mem = s.mem := by
  unfold takeInputs; split <;> rfl
@[simp] theorem takeInputs_inputs (s : State) : s.takeInputs.inputs = s.inputs.tail := by
  unfold takeInputs; split <;> simp_all

end Sys2Proof.Machine.State

namespace Sys2Proof.Machine

@[simp] theorem applyInputs_nil (r : Vector Byte 14) : applyInputs r [] = r := rfl

theorem applyInputs_append (r : Vector Byte 14) (l m : List RregInput) :
    applyInputs r (l ++ m) = applyInputs (applyInputs r l) m := List.foldl_append

/-- What the environment does to the read side before one step. -/
theorem takeInputs_rreg (s : State) : s.takeInputs.rreg = applyInputs s.rreg (s.inputs.take 1).flatten := by
  unfold State.takeInputs
  cases hi : s.inputs with
  | nil => rfl
  | cons now later => simp

/-- One step's entry and then those of `k` more steps are those of `k` + 1 steps. -/
theorem applyInputs_take_succ (r : Vector Byte 14) (l : List (List RregInput)) (k : Nat) :
    applyInputs (applyInputs r (l.take 1).flatten) (l.tail.take k).flatten = applyInputs r (l.take (k + 1)).flatten := by
  cases l with
  | nil => simp
  | cons now later => simp [applyInputs_append]

/-- With nothing from the environment nothing changes. -/
theorem takeInputs_nil {s : State} (h : s.inputs = []) : s.takeInputs = s := by
  unfold State.takeInputs; rw [h]

end Sys2Proof.Machine
end

