-- ==== Sys2Proof/Laws/Bus.lean ====
section
/-! SUPPORT. The bus: what a read depends on, everything a write can do, and that both ignore the processor's registers. -/

namespace Sys2Proof.Machine

/-- A read depends on the parameters, the read-side registers and the store alone. -/
theorem memRead_congr {s t : State} (hc : t.cfg = s.cfg) (hr : t.rreg = s.rreg) (hm : t.mem = s.mem) (addr : Word) :
    t.memRead addr = s.memRead addr := by
  simp only [State.memRead, State.periphRead, hc, hr, hm]

/-- So does a word read. -/
theorem memRead16_congr {s t : State} (hc : t.cfg = s.cfg) (hr : t.rreg = s.rreg) (hm : t.mem = s.mem) (addr : Word) :
    t.memRead16 addr = s.memRead16 addr := by
  simp only [State.memRead16, memRead_congr hc hr hm]

/-- An effective address depends on those and on the index registers. -/
theorem effAddr_congr {s t : State} (hc : t.cfg = s.cfg) (hr : t.rreg = s.rreg) (hm : t.mem = s.mem) (hx : t.x = s.x)
    (hy : t.y = s.y) (m : MemMode) : t.effAddr m = s.effAddr m := by
  cases m <;> simp only [State.effAddr, memRead16_congr hc hr hm, hx, hy]

/-- So does an operand. -/
theorem loadOperand_congr {s t : State} (hc : t.cfg = s.cfg) (hr : t.rreg = s.rreg) (hm : t.mem = s.mem) (hx : t.x = s.x)
    (hy : t.y = s.y) (sensitive : Bool) (src : Src) : t.loadOperand sensitive src = s.loadOperand sensitive src := by
  cases src <;> simp only [State.loadOperand, effAddr_congr hc hr hm hx hy, memRead_congr hc hr hm]

/-- A read ends in a byte or in BoundsError at its own address. -/
theorem memRead_cases (s : State) (addr : Word) :
    (∃ v, s.memRead addr = .ok v) ∨
      (s.memRead addr = .error (.boundsError addr) ∧ inWindow s.cfg addr = false ∧ s.cfg.memSize ≤ addr.toNat) := by
  unfold State.memRead
  split
  · exact .inl ⟨_, rfl⟩
  · split
    · exact .inl ⟨_, rfl⟩
    · exact .inr ⟨rfl, by simpa using ‹¬inWindow s.cfg addr = true›, by omega⟩

/-- Everything a write can do: the window's effect, a byte of the store, or BoundsError at its own address. -/
theorem memWrite_cases (s : State) (addr : Word) (v : Byte) :
    (inWindow s.cfg addr = true ∧ s.memWrite addr v = .ok (s.periphWrite (windowOffset s.cfg addr) v)) ∨
      (inWindow s.cfg addr = false ∧ addr.toNat < s.cfg.memSize ∧
        s.memWrite addr v = .ok { s with mem := Memory.put s.mem addr.toNat v }) ∨
      (inWindow s.cfg addr = false ∧ s.cfg.memSize ≤ addr.toNat ∧ s.memWrite addr v = .error (.boundsError addr)) := by
  unfold State.memWrite
  split
  · exact .inl ⟨‹_›, rfl⟩
  · have hw : inWindow s.cfg addr = false := by simpa using ‹¬inWindow s.cfg addr = true›
    split
    · exact .inr (.inl ⟨hw, ‹_›, rfl⟩)
    · exact .inr (.inr ⟨hw, by omega, rfl⟩)

/-- A write to a window offset past the write side is a no-op (R48). -/
theorem periphWrite_readSide (s : State) {o : Nat} (v : Byte) (h : 0x2C < o) : s.periphWrite o v = s := by
  simp only [State.periphWrite, if_neg (show ¬o ≤ 0x2C by omega)]

/-- What no write touches: parameters, registers, PC, cycle count, latch, counters and the environment's queue. -/
structure SameProcessor (s t : State) : Prop where
  cfg : t.cfg = s.cfg
  a : t.a = s.a
  x : t.x = s.x
  y : t.y = s.y
  sp : t.sp = s.sp
  p : t.p = s.p
  pc : t.pc = s.pc
  remaining : t.remaining = s.remaining
  fault : t.fault = s.fault
  div : t.div = s.div
  hpos : t.hpos = s.hpos
  inputs : t.inputs = s.inputs

theorem periphWrite_sameProcessor (s : State) (o : Nat) (v : Byte) : SameProcessor s (s.periphWrite o v) := by
  unfold State.periphWrite
  split <;> constructor <;> simp

/-- A write leaves the processor and the sequencer alone. -/
theorem memWrite_sameProcessor {s t : State} {addr : Word} {v : Byte} (h : s.memWrite addr v = .ok t) :
    SameProcessor s t := by
  rcases memWrite_cases s addr v with ⟨-, he⟩ | ⟨-, -, he⟩ | ⟨-, -, he⟩ <;> rw [h] at he <;> cases he
  · exact periphWrite_sameProcessor s _ v
  · constructor <;> rfl

/-- The window's effect does not look at the processor's registers. -/
theorem periphWrite_regs (s : State) (o : Nat) (v a x y sp p : Byte) (pc : Word) :
    ({ s with a := a, x := x, y := y, sp := sp, p := p, pc := pc } : State).periphWrite o v =
      { s.periphWrite o v with a := a, x := x, y := y, sp := sp, p := p, pc := pc } := by
  unfold State.periphWrite
  split <;> rfl

/-- A write does not look at the processor's registers. -/
theorem memWrite_regs (s : State) (addr : Word) (v a x y sp p : Byte) (pc : Word) :
    ({ s with a := a, x := x, y := y, sp := sp, p := p, pc := pc } : State).memWrite addr v =
      (s.memWrite addr v).map fun t => { t with a := a, x := x, y := y, sp := sp, p := p, pc := pc } := by
  unfold State.memWrite
  split
  · simp only [periphWrite_regs]; rfl
  · split <;> rfl

/-- A write keeps the store canonical and within its bound. -/
theorem memWrite_keeps_store {s t : State} {addr : Word} {v : Byte} (h : s.memWrite addr v = .ok t)
    (hw : Memory.wf s.mem = true) (hb : Memory.below s.mem s.cfg.memSize = true) :
    Memory.wf t.mem = true ∧ Memory.below t.mem t.cfg.memSize = true := by
  rcases memWrite_cases s addr v with ⟨-, he⟩ | ⟨-, hlt, he⟩ | ⟨-, -, he⟩ <;> rw [h] at he <;> cases he
  · unfold State.periphWrite
    split <;> exact ⟨by simpa using hw, by simpa using hb⟩
  · exact ⟨Memory.put_wf _ _ hw, Memory.put_below _ hb hlt⟩

/-! ## The window -/

/-- An in-window address is the address of its offset. -/
theorem windowAddr_of_offset {c : Config} {a : Word} (h : inWindow c a = true) : a = windowAddr c (windowOffset c a) := by
  simp only [inWindow, Bool.and_eq_true, decide_eq_true_eq] at h
  simp only [windowAddr, windowOffset]
  apply BitVec.eq_of_toNat_eq
  have := a.isLt
  simp only [BitVec.toNat_add, BitVec.toNat_ofNat]
  omega

theorem periphWrite_wreg (s : State) (o : Nat) (v : Byte) (k : Fin 45) : (s.periphWrite o v).wreg[k] = if o = k.val then v else s.wreg[k] := by
  unfold State.periphWrite
  split
  · simp [State.strobe, State.latchWreg, Vector.getElem_setIfInBounds]
  · simp only [if_neg (show ¬o = k.val by omega)]

theorem periphWrite_rreg (s : State) (o : Nat) (v : Byte) (h : o ≠ s.cfg.cxclrOffset) : (s.periphWrite o v).rreg = s.rreg := by
  unfold State.periphWrite
  split
  · simp [State.strobe, State.latchWreg, h]
  · rfl

/-- No window write changes an input port, the clear included (R47, R48). -/
theorem periphWrite_port (s : State) (o : Nat) (v : Byte) (k : Fin 14) (h : 8 ≤ k.val) :
    (s.periphWrite o v).rreg[k] = s.rreg[k] := by
  unfold State.periphWrite
  split
  · have hc : (clearCollisions s.rreg)[k] = s.rreg[k] := by simp [clearCollisions, show ¬k.val < 8 by omega]
    have key : ∀ b : Bool, (if b = true then clearCollisions s.rreg else s.rreg)[k] = s.rreg[k] := by
      intro b; cases b
      · rfl
      · exact hc
    exact key _
  · rfl

/-- No write changes an input port. -/
theorem memWrite_port {s t : State} {addr : Word} {v : Byte} (h : s.memWrite addr v = .ok t) (k : Fin 14) (hk : 8 ≤ k.val) :
    t.rreg[k] = s.rreg[k] := by
  rcases memWrite_cases s addr v with ⟨-, he⟩ | ⟨-, -, he⟩ | ⟨-, -, he⟩ <;> rw [h] at he <;> cases he
  · exact periphWrite_port s _ v k hk
  · rfl

theorem periphWrite_suspended (s : State) (o : Nat) (v : Byte) (h : s.cfg.wsyncOffset ≤ 0x2C) : (s.periphWrite o v).suspended = (s.suspended || o == s.cfg.wsyncOffset) := by
  unfold State.periphWrite
  split
  · rfl
  · rw [show (o == s.cfg.wsyncOffset) = false by rw [beq_eq_false_iff_ne]; omega, Bool.or_false]

theorem periphWrite_mem (s : State) (o : Nat) (v : Byte)  : (s.periphWrite o v).mem = s.mem := by
  unfold State.periphWrite
  split <;> rfl

/-! ## Words and errors -/

/-- A word read whose two bytes can be read. -/
theorem memRead16_ok {s : State} {addr : Word} {lo hi : Byte} (h1 : s.memRead addr = .ok lo) (h2 : s.memRead (addr + 1) = .ok hi) :
   s.memRead16 addr = .ok (wordOf hi lo) := by
  simp only [State.memRead16, h1, h2]; rfl

/-- A word read whose low byte cannot be read. -/
theorem memRead16_error_lo {s : State} {addr : Word} {f} (h1 : s.memRead addr = .error f)  :
   s.memRead16 addr = .error f := by
  simp only [State.memRead16, h1]; rfl

/-- A word read whose high byte cannot be read. -/
theorem memRead16_error_hi {s : State} {addr : Word} {lo : Byte} {f} (h1 : s.memRead addr = .ok lo) (h2 : s.memRead (addr + 1) = .error f) :
   s.memRead16 addr = .error f := by
  simp only [State.memRead16, h1, h2]; rfl

/-- A failed read says its own address. -/
theorem memRead_error {s : State} {addr : Word} {f} (h : s.memRead addr = .error f) : f = .boundsError addr := by
  rcases memRead_cases s addr with ⟨v, hv⟩ | ⟨hv, -⟩ <;> rw [hv] at h <;> cases h; rfl

/-- With the whole space stored every read succeeds. -/
theorem memRead_full {s : State} (h : s.cfg.memSize = 65536) (a) : ∃ v, s.memRead a = .ok v := by
  rcases memRead_cases s a with h' | ⟨-, -, h'⟩
  · exact h'
  · have := a.isLt; omega

/-- A write does not look at PC. -/
theorem memWrite_pc {s t : State} {a v} (h : s.memWrite a v = .ok t) (pc : Word) : ({ s with pc := pc } : State).memWrite a v = .ok { t with pc := pc } := by
  have := memWrite_regs s a v s.a s.x s.y s.sp s.p pc
  have hs := memWrite_sameProcessor h
  rw [h] at this
  refine this.trans ?_
  simp only [Except.map]
  rw [← hs.a, ← hs.x, ← hs.y, ← hs.sp, ← hs.p]

/-- Whether a write fails depends on the parameters alone. -/
theorem memWrite_error_congr {s t : State} {a : Word} {v w : Byte} {f : Fault} (h : s.memWrite a v = .error f) (hc : t.cfg = s.cfg) :
    t.memWrite a w = .error f := by
  rcases memWrite_cases s a v with ⟨-, he⟩ | ⟨-, -, he⟩ | ⟨h1, h2, he⟩ <;> rw [h] at he <;> cases he
  simp only [State.memWrite, hc, h1, Bool.false_eq_true, if_false, if_neg (show ¬a.toNat < s.cfg.memSize by omega)]

/-- Nor at SP. -/
theorem memWrite_pc_sp {s t : State} {a v} (h : s.memWrite a v = .ok t) (pc : Word) (sp : Byte) : ({ s with pc := pc, sp := sp } : State).memWrite a v = .ok { t with pc := pc, sp := sp } := by
  have := memWrite_regs s a v s.a s.x s.y sp s.p pc
  have hs := memWrite_sameProcessor h
  rw [h] at this
  refine this.trans ?_
  simp only [Except.map]
  rw [← hs.a, ← hs.x, ← hs.y, ← hs.p]

end Sys2Proof.Machine
end

