-- ==== Sys2Proof/Laws/Words.lean ====
section
/-! SUPPORT. Words and their bytes, as numbers. -/

namespace Sys2Proof

/-- `{hi, lo} = hi * 256 + lo` (spec/00_scope.md R4). -/
theorem wordOf_toNat (hi lo : Byte) : (wordOf hi lo).toNat = hi.toNat * 256 + lo.toNat := by
  have := lo.isLt
  rw [wordOf, BitVec.toNat_append, ← Nat.shiftLeft_add_eq_or_of_lt (by omega), Nat.shiftLeft_eq]

@[simp] theorem loByte_toNat (w : Word) : (loByte w).toNat = w.toNat % 256 := by
  simp [loByte, BitVec.extractLsb'_toNat]

@[simp] theorem hiByte_toNat (w : Word) : (hiByte w).toNat = w.toNat / 256 := by
  have := w.isLt
  simp only [hiByte, BitVec.extractLsb'_toNat, Nat.shiftRight_eq_div_pow]
  omega

@[simp] theorem loByte_wordOf (hi lo : Byte) : loByte (wordOf hi lo) = lo := by
  have := lo.isLt
  apply BitVec.eq_of_toNat_eq
  rw [loByte_toNat, wordOf_toNat]
  omega

@[simp] theorem hiByte_wordOf (hi lo : Byte) : hiByte (wordOf hi lo) = hi := by
  have := lo.isLt
  apply BitVec.eq_of_toNat_eq
  rw [hiByte_toNat, wordOf_toNat]
  omega

@[simp] theorem wordOf_hiByte_loByte (w : Word) : wordOf (hiByte w) (loByte w) = w := by
  apply BitVec.eq_of_toNat_eq
  rw [wordOf_toNat, hiByte_toNat, loByte_toNat]
  omega

theorem wordOf_eq_ofNat (hi lo : Byte) : wordOf hi lo = BitVec.ofNat 16 (hi.toNat * 256 + lo.toNat) := by
  rw [← wordOf_toNat, BitVec.ofNat_toNat, BitVec.setWidth_eq]

namespace Machine

/-- Two stack offsets give two addresses. -/
theorem stackAddr_inj {m n : Byte} (h : stackAddr m = stackAddr n) : m = n := by
  simpa only [stackAddr, loByte_wordOf] using congrArg loByte h

@[simp] theorem zext16_toNat (b : Byte) : (zext16 b).toNat = b.toNat := by
  have := b.isLt
  simp only [zext16, BitVec.toNat_setWidth]
  omega

/-- An index crosses a page exactly if it carries out of the low byte (R105: the two forms agree). -/
theorem indexedAddr_crossed (base : Word) (index : Byte) :
    (indexedAddr base index).crossed = true ↔ 255 < base.toNat % 256 + index.toNat := by
  have hb := base.isLt
  have hi := index.isLt
  simp only [indexedAddr, page, bne_iff_ne, ne_eq, ← BitVec.toNat_inj, hiByte_toNat, BitVec.toNat_add, zext16_toNat]
  omega

/-- The indexed address is the sum mod 65536. -/
theorem indexedAddr_toNat (base : Word) (index : Byte) :
    (indexedAddr base index).addr.toNat = (base.toNat + index.toNat) % 65536 := by
  simp only [indexedAddr, BitVec.toNat_add, zext16_toNat]

end Machine

end Sys2Proof
end

