-- ==== Sys2Proof/Laws/Ops.lean ====
section
/-! SUPPORT. How a piece of pseudocode runs, and, once for each shared operation, everything it can do: provers cite these in
place of unfolding the operations. -/

namespace Sys2Proof.Machine

/-! ## Sequencing -/

@[simp] theorem bind_run {α β : Type} (x : Op α) (f : α → Op β) (s : State) :
    (x >>= f) s = match x s with
      | .ok v t => f v t
      | .error e t => .error e t := by
  change EStateM.bind x f s = _
  unfold EStateM.bind
  cases x s <;> rfl

@[simp] theorem pure_run {α : Type} (v : α) (s : State) : (pure v : Op α) s = .ok v s := rfl

@[simp] theorem getState_run (s : State) : getState s = .ok s s := rfl

@[simp] theorem update_run (f : State → State) (s : State) : update f s = .ok () (f s) := rfl

@[simp] theorem readBy_run {α : Type} (f : State → Except Fault α) (s : State) :
    readBy f s = match f s with
      | .ok v => .ok v s
      | .error e => .error e s := rfl

@[simp] theorem busWrite_run (addr : Word) (v : Byte) (s : State) :
    busWrite addr v s = match s.memWrite addr v with
      | .ok t => .ok () t
      | .error e => .error e s := rfl

/-- `<$>` is a bind, and simp's preferred form of one. -/
@[simp] theorem map_run {α β : Type} (f : α → β) (x : Op α) (s : State) :
    (f <$> x) s = match x s with
      | .ok v t => .ok (f v) t
      | .error e t => .error e t := by
  change EStateM.map f x s = _
  unfold EStateM.map
  cases x s <;> rfl

theorem readBy_run_ok {α : Type} {f : State → Except Fault α} {s : State} {v : α} (h : f s = .ok v) :
    readBy f s = .ok v s := by
  simp only [readBy, h]

theorem readBy_run_error {α : Type} {f : State → Except Fault α} {s : State} {e : Fault} (h : f s = .error e) :
    readBy f s = .error e s := by
  simp only [readBy, h]

theorem busWrite_run_ok {addr : Word} {v : Byte} {s t : State} (h : s.memWrite addr v = .ok t) :
    busWrite addr v s = .ok () t := by
  simp only [busWrite, h]

theorem busWrite_run_error {addr : Word} {v : Byte} {s : State} {e : Fault} (h : s.memWrite addr v = .error e) :
    busWrite addr v s = .error e s := by
  simp only [busWrite, h]

/-! ## The frame of an instruction -/

/-- An instruction whose body runs to its end. -/
theorem runInstr_ok {len base : Nat} {body : Op Nat} {s t : State} {extra : Nat}
    (h : body { s with pc := s.pc + BitVec.ofNat 16 len } = .ok extra t) :
    runInstr len base body s = .next { t with remaining := base - 1 + extra } := by
  simp only [runInstr, h]

/-- An instruction whose body ends in a fault. -/
theorem runInstr_error {len base : Nat} {body : Op Nat} {s t : State} {f : Fault}
    (h : body { s with pc := s.pc + BitVec.ofNat 16 len } = .error f t) :
    runInstr len base body s = .next { t with fault := some f } := by
  simp only [runInstr, h]

/-- Everything an instruction's frame can do. -/
theorem runInstr_cases (len base : Nat) (body : Op Nat) (s : State) :
    (∃ extra t, body { s with pc := s.pc + BitVec.ofNat 16 len } = .ok extra t ∧
        runInstr len base body s = .next { t with remaining := base - 1 + extra }) ∨
      (∃ f t, body { s with pc := s.pc + BitVec.ofNat 16 len } = .error f t ∧
        runInstr len base body s = .next { t with fault := some f }) := by
  cases h : body { s with pc := s.pc + BitVec.ofNat 16 len } with
  | ok extra t => exact .inl ⟨extra, t, rfl, runInstr_ok h⟩
  | error f t => exact .inr ⟨f, t, rfl, runInstr_error h⟩

/-! ## Invariants of a piece of pseudocode -/

/-- Whatever the pseudocode does, to its end or to a fault, the state it leaves is related to the one it began in. -/
def Op.Keeps {α : Type} (R : State → State → Prop) (x : Op α) : Prop :=
  ∀ s, match x s with
    | .ok _ t => R s t
    | .error _ t => R s t

/-- A relation that holds of no change and of two changes in a row. -/
structure Preorder (R : State → State → Prop) : Prop where
  refl : ∀ s, R s s
  trans : ∀ s t u, R s t → R t u → R s u

namespace Op.Keeps

variable {R : State → State → Prop} {α β : Type}

theorem bind (hR : Preorder R) {x : Op α} {f : α → Op β} (hx : Op.Keeps R x) (hf : ∀ v, Op.Keeps R (f v)) :
    Op.Keeps R (x >>= f) := by
  intro s
  have h := hx s
  rw [bind_run]
  cases hxs : x s with
  | ok v t =>
    rw [hxs] at h
    have hft := hf v t
    cases hv : f v t with
    | ok _ u => rw [hv] at hft; simpa [hv] using hR.trans _ _ _ h hft
    | error _ u => rw [hv] at hft; simpa [hv] using hR.trans _ _ _ h hft
  | error e t => rw [hxs] at h; exact h

theorem pure (hR : Preorder R) (v : α) : Op.Keeps R (Pure.pure v : Op α) := fun s => hR.refl s

theorem getState (hR : Preorder R) : Op.Keeps R Machine.getState := fun s => hR.refl s

theorem update {f : State → State} (h : ∀ s, R s (f s)) : Op.Keeps R (Machine.update f) := h

theorem readBy (hR : Preorder R) (f : State → Except Fault α) : Op.Keeps R (Machine.readBy f) := by
  intro s
  cases h : f s with
  | ok v => rw [readBy_run_ok h]; exact hR.refl s
  | error e => rw [readBy_run_error h]; exact hR.refl s

theorem busWrite (hR : Preorder R) (addr : Word) (v : Byte) (h : ∀ s t, s.memWrite addr v = .ok t → R s t) :
    Op.Keeps R (Machine.busWrite addr v) := by
  intro s
  cases hw : s.memWrite addr v with
  | ok t => rw [busWrite_run_ok hw]; exact h s t hw
  | error e => rw [busWrite_run_error hw]; exact hR.refl s

end Op.Keeps

/-! ## Operands -/

/-- A read instruction whose operand can be read. -/
theorem readInstr_ok {src : Src} {sens : Bool} {f : Byte → State → State} {s : State} {m : Byte} {extra : Nat}
    (h : s.loadOperand sens src = .ok (m, extra)) : readInstr src sens f s = .ok extra (f m s) := by
  simp [readInstr, h]

/-- A read instruction whose operand cannot be read. -/
theorem readInstr_error {src : Src} {sens : Bool} {f : Byte → State → State} {s : State} {e : Fault}
    (h : s.loadOperand sens src = .error e) : readInstr src sens f s = .error e s := by
  simp [readInstr, h]

/-- A store that can be made. -/
theorem storeInstr_ok {m : MemMode} {v : State → Byte} {s t : State} {ea : EffAddr} (ha : s.effAddr m = .ok ea)
    (hw : s.memWrite ea.addr (v s) = .ok t) : storeInstr m v s = .ok 0 t := by
  simp [storeInstr, ha, hw]

/-- A store whose pointer cannot be read. -/
theorem storeInstr_pointer_error {m : MemMode} {v : State → Byte} {s : State} {e : Fault} (ha : s.effAddr m = .error e) :
    storeInstr m v s = .error e s := by
  simp [storeInstr, ha]

/-- A store out of bounds. -/
theorem storeInstr_write_error {m : MemMode} {v : State → Byte} {s : State} {ea : EffAddr} {e : Fault}
    (ha : s.effAddr m = .ok ea) (hw : s.memWrite ea.addr (v s) = .error e) : storeInstr m v s = .error e s := by
  simp [storeInstr, ha, hw]

/-- A read-modify-write of the accumulator. -/
theorem rmwInstr_acc (f : Byte → Byte) (flags : Byte → State → State) (s : State) :
    rmwInstr .acc f flags s = .ok 0 (flags s.a { s with a := f s.a }) := by
  simp [rmwInstr, modifyOperand]

/-- A read-modify-write of memory. -/
theorem rmwInstr_mem {m : MemMode} {f : Byte → Byte} {flags : Byte → State → State} {s t : State} {ea : EffAddr}
    {old : Byte} (ha : s.effAddr m = .ok ea) (hr : s.memRead ea.addr = .ok old)
    (hw : s.memWrite ea.addr (f old) = .ok t) : rmwInstr (.mem m) f flags s = .ok 0 (flags old t) := by
  simp [rmwInstr, modifyOperand, ha, hr, hw]

/-- A read-modify-write of memory whose pointer cannot be read. -/
theorem rmwInstr_pointer_error {m : MemMode} {f : Byte → Byte} {flags : Byte → State → State} {s : State} {e : Fault}
    (ha : s.effAddr m = .error e) : rmwInstr (.mem m) f flags s = .error e s := by
  simp [rmwInstr, modifyOperand, ha]

/-- A read-modify-write of memory whose operand cannot be read. -/
theorem rmwInstr_read_error {m : MemMode} {f : Byte → Byte} {flags : Byte → State → State} {s : State} {ea : EffAddr}
    {e : Fault} (ha : s.effAddr m = .ok ea) (hr : s.memRead ea.addr = .error e) :
    rmwInstr (.mem m) f flags s = .error e s := by
  simp [rmwInstr, modifyOperand, ha, hr]

/-- A read-modify-write reads and writes at one address, so a byte that can be read can be written. -/
theorem memWrite_of_memRead {s : State} {addr : Word} {old : Byte} (hr : s.memRead addr = .ok old) (v : Byte) :
    ∃ t, s.memWrite addr v = .ok t := by
  rcases memWrite_cases s addr v with ⟨-, h⟩ | ⟨-, -, h⟩ | ⟨hw, hb, -⟩
  · exact ⟨_, h⟩
  · exact ⟨_, h⟩
  · simp [State.memRead, hw, Nat.not_lt.mpr hb] at hr

/-! ## The stack -/

/-- A push that can be made. -/
theorem push_ok {b : Byte} {s t : State} (h : s.memWrite (stackAddr s.sp) b = .ok t) :
    push b s = .ok () { t with sp := s.sp - 1 } := by
  simp [push, h, (memWrite_sameProcessor h).sp]

/-- A push out of bounds leaves the state as it is. -/
theorem push_error {b : Byte} {s : State} {e : Fault} (h : s.memWrite (stackAddr s.sp) b = .error e) :
    push b s = .error e s := by
  simp [push, h]

/-- A read of the bus does not look at the stack pointer. -/
theorem memRead_sp (s : State) (sp : Byte) (addr : Word) : ({ s with sp := sp } : State).memRead addr = s.memRead addr :=
  rfl

/-- A pop whose byte can be read. -/
theorem pop_ok {b : Byte} {s : State} (h : s.memRead (stackAddr (s.sp + 1)) = .ok b) :
    pop s = .ok b { s with sp := s.sp + 1 } := by
  exact readBy_run_ok (f := fun t => t.memRead (stackAddr t.sp)) (s := { s with sp := s.sp + 1 }) h

/-- A pop out of bounds has incremented the stack pointer. -/
theorem pop_error {s : State} {e : Fault} (h : s.memRead (stackAddr (s.sp + 1)) = .error e) :
    pop s = .error e { s with sp := s.sp + 1 } := by
  exact readBy_run_error (f := fun t => t.memRead (stackAddr t.sp)) (s := { s with sp := s.sp + 1 }) h

/-- A word pushed. -/
theorem pushWord_ok {s t u : State} {w : Word} (h1 : s.memWrite (stackAddr s.sp) (hiByte w) = .ok t) (h2 : t.memWrite (stackAddr (s.sp - 1)) (loByte w) = .ok u) :
   pushWord w s = .ok () { u with sp := s.sp - 2 } := by
  unfold pushWord
  have e : s.sp - 1 - 1 = s.sp - 2 := by bv_omega
  rw [bind_run, push_ok h1]
  simp only
  have := memWrite_regs t (stackAddr (s.sp - 1)) (loByte w) t.a t.x t.y (s.sp - 1) t.p t.pc
  rw [h2] at this
  have hs := memWrite_sameProcessor h2
  refine (push_ok (s := { t with sp := s.sp - 1 }) this).trans ?_
  simp only [e, ← hs.a, ← hs.x, ← hs.y, ← hs.p, ← hs.pc]

/-- A word popped. -/
theorem popWord_ok {s : State} {lo hi} (h1 : s.memRead (stackAddr (s.sp + 1)) = .ok lo) (h2 : s.memRead (stackAddr (s.sp + 2)) = .ok hi) :
   popWord s = .ok (wordOf hi lo) { s with sp := s.sp + 2 } := by
  unfold popWord
  have e : s.sp + 1 + 1 = s.sp + 2 := by bv_omega
  rw [bind_run, pop_ok h1]
  simp only
  rw [bind_run, pop_ok (b := hi) (s := { s with sp := s.sp + 1 }) (by rw [show ({ s with sp := s.sp + 1 } : State).sp = s.sp + 1 from rfl, e]; exact h2)]
  simp only [pure_run, e]

/-- A word push whose first byte cannot be written does nothing. -/
theorem pushWord_error_hi {s : State} {w : Word} {f : Fault} (h : s.memWrite (stackAddr s.sp) (hiByte w) = .error f) :
    pushWord w s = .error f s := by
  unfold pushWord
  rw [bind_run, push_error h]

/-- A word push whose second byte cannot be written keeps the first. -/
theorem pushWord_error_lo {s t : State} {w : Word} {f : Fault} (h1 : s.memWrite (stackAddr s.sp) (hiByte w) = .ok t)
    (h2 : t.memWrite (stackAddr (s.sp - 1)) (loByte w) = .error f) :
    pushWord w s = .error f { t with sp := s.sp - 1 } := by
  unfold pushWord
  rw [bind_run, push_ok h1]
  exact push_error (memWrite_error_congr h2 rfl)

/-- A word pull whose first byte cannot be read has raised SP once. -/
theorem popWord_error_lo {s : State} {f : Fault} (h : s.memRead (stackAddr (s.sp + 1)) = .error f) :
    popWord s = .error f { s with sp := s.sp + 1 } := by
  unfold popWord
  rw [bind_run, pop_error h]

/-- A word pull whose second byte cannot be read has raised SP twice. -/
theorem popWord_error_hi {s : State} {lo : Byte} {f : Fault} (h1 : s.memRead (stackAddr (s.sp + 1)) = .ok lo)
    (h2 : s.memRead (stackAddr (s.sp + 2)) = .error f) :
    popWord s = .error f { s with sp := s.sp + 2 } := by
  unfold popWord
  have e : s.sp + 1 + 1 = s.sp + 2 := by bv_omega
  rw [bind_run, pop_ok h1]
  simp only
  rw [bind_run, pop_error (s := { s with sp := s.sp + 1 }) (e := f) (by simp only [e]; exact h2)]
  simp only [e]

end Sys2Proof.Machine
end

