-- ==== Sys2Proof/Laws/Exec.lean ====
section
/-! SUPPORT. The dispatch read by mnemonic and mode in place of its 151 arms, and the invariants of every shared operation, so that
a statement about every instruction is 56 short cases. -/

namespace Sys2Proof

open Machine

/-- The operand of a read instruction. -/
def Instr.src (i : Instr) : Src :=
  match i.mode with
  | .imm v => .imm v
  | .mem m => .mem m
  | _ => .imm 0x00

/-- The mode of a store. -/
def Instr.memMode (i : Instr) : MemMode :=
  match i.mode with
  | .mem m => m
  | _ => .zp 0x00

/-- The operand of a read-modify-write. -/
def Instr.dst (i : Instr) : Dst :=
  match i.mode with
  | .mem m => .mem m
  | _ => .acc

/-- The target of a jump or a call. -/
def Instr.target (i : Instr) : Word :=
  match i.mode with
  | .mem (.abs w) => w
  | _ => 0x0000

/-- The displacement of a branch. -/
def Instr.disp (i : Instr) : Byte :=
  match i.mode with
  | .rel d => d
  | _ => 0x00

/-- What an instruction does inside its frame, by mnemonic; `pc0` is its opcode's address. -/
def Instr.body (i : Instr) (pc0 : Word) : Op Nat :=
  match i.mnemonic with
  | .lda => opLda i.src i.row.sensitive
  | .ldx => opLdx i.src i.row.sensitive
  | .ldy => opLdy i.src i.row.sensitive
  | .sta => opSta i.memMode
  | .stx => opStx i.memMode
  | .sty => opSty i.memMode
  | .tax => opTax
  | .tay => opTay
  | .txa => opTxa
  | .tya => opTya
  | .tsx => opTsx
  | .txs => opTxs
  | .pha => opPha
  | .php => opPhp
  | .pla => opPla
  | .plp => opPlp
  | .ora => opOra i.src i.row.sensitive
  | .and => opAnd i.src i.row.sensitive
  | .eor => opEor i.src i.row.sensitive
  | .bit => opBit i.src i.row.sensitive
  | .adc => opAdc i.src i.row.sensitive
  | .sbc => opSbc i.src i.row.sensitive
  | .cmp => opCmp i.src i.row.sensitive
  | .cpx => opCpx i.src i.row.sensitive
  | .cpy => opCpy i.src i.row.sensitive
  | .inc => opInc i.memMode
  | .dec => opDec i.memMode
  | .inx => opInx
  | .iny => opIny
  | .dex => opDex
  | .dey => opDey
  | .asl => opAsl i.dst
  | .lsr => opLsr i.dst
  | .rol => opRol i.dst
  | .ror => opRor i.dst
  | .jmp =>
    match i.mode with
    | .ind ptr => opJmpInd ptr
    | _ => opJmpAbs i.target
  | .jsr => opJsr pc0 i.target
  | .rts => opRts
  | .bpl => opBpl pc0 i.disp
  | .bmi => opBmi pc0 i.disp
  | .bvc => opBvc pc0 i.disp
  | .bvs => opBvs pc0 i.disp
  | .bcc => opBcc pc0 i.disp
  | .bcs => opBcs pc0 i.disp
  | .bne => opBne pc0 i.disp
  | .beq => opBeq pc0 i.disp
  | .clc => opClc
  | .sec => opSec
  | .cli => opCli
  | .sei => opSei
  | .cld => opCld
  | .sed => opSed
  | .clv => opClv
  | .nop => opNop
  | .brk => opBrk pc0
  | .rti => opRti

end Sys2Proof

namespace Sys2Proof.Machine

/-- Every arm of the dispatch is its body in its frame. -/
theorem exec_eq_runInstr (i : Instr) (s : State) : exec i s = runInstr i.length i.row.base (i.body s.pc) s := by
  cases i <;> rfl

/-! ## Invariants of the shared operations -/

namespace Op.Keeps

variable {R : State → State → Prop}

theorem readInstr (hR : Preorder R) (src : Src) (sens : Bool) {f : Byte → State → State} (h : ∀ m s, R s (f m s)) :
    Op.Keeps R (Machine.readInstr src sens f) :=
  bind hR (readBy hR _) fun _ => bind hR (update (h _)) fun _ => pure hR _

theorem storeInstr (hR : Preorder R) (m : MemMode) (v : State → Byte)
    (hw : ∀ addr b s t, s.memWrite addr b = .ok t → R s t) : Op.Keeps R (Machine.storeInstr m v) :=
  bind hR (getState hR) fun _ => bind hR (readBy hR _) fun _ => bind hR (busWrite hR _ _ (hw _ _)) fun _ => pure hR _

theorem rmwInstr (hR : Preorder R) (d : Dst) (f : Byte → Byte) {flags : Byte → State → State}
    (hw : ∀ addr b s t, s.memWrite addr b = .ok t → R s t) (ha : d = .acc → ∀ s v, R s { s with a := v })
    (h : ∀ old s, R s (flags old s)) : Op.Keeps R (Machine.rmwInstr d f flags) := by
  refine bind hR ?_ fun _ => bind hR (update (h _)) fun _ => pure hR _
  cases d with
  | acc => exact bind hR (getState hR) fun u => bind hR (update fun s => ha rfl s (f u.a)) fun _ => pure hR _
  | mem m =>
    exact bind hR (readBy hR _) fun _ => bind hR (readBy hR _) fun _ =>
      bind hR (busWrite hR _ _ (hw _ _)) fun _ => pure hR _

theorem registerInstr (hR : Preorder R) {f : State → State} (h : ∀ s, R s (f s)) :
    Op.Keeps R (Machine.registerInstr f) :=
  bind hR (update h) fun _ => pure hR _

theorem branchIf (hR : Preorder R) (cond : State → Bool) (pc0 : Word) (disp : Byte) (h : ∀ s pc, R s { s with pc := pc }) :
    Op.Keeps R (Machine.branchIf cond pc0 disp) := by
  refine bind hR (getState hR) fun s => ?_
  split
  · exact bind hR (update fun s => h s _) fun _ => pure hR _
  · exact pure hR _

theorem push (hR : Preorder R) (b : Byte) (hw : ∀ addr b s t, s.memWrite addr b = .ok t → R s t)
    (hsp : ∀ s v, R s { s with sp := v }) : Op.Keeps R (Machine.push b) :=
  bind hR (getState hR) fun _ => bind hR (busWrite hR _ _ (hw _ _)) fun _ => update fun s => hsp s _

theorem pop (hR : Preorder R) (hsp : ∀ s v, R s { s with sp := v }) : Op.Keeps R Machine.pop :=
  bind hR (update fun s => hsp s _) fun _ => readBy hR _

theorem pushWord (hR : Preorder R) (w : Word) (hw : ∀ addr b s t, s.memWrite addr b = .ok t → R s t)
    (hsp : ∀ s v, R s { s with sp := v }) : Op.Keeps R (Machine.pushWord w) :=
  bind hR (push hR _ hw hsp) fun _ => push hR _ hw hsp

theorem popWord (hR : Preorder R) (hsp : ∀ s v, R s { s with sp := v }) : Op.Keeps R Machine.popWord :=
  bind hR (pop hR hsp) fun _ => bind hR (pop hR hsp) fun _ => pure hR _

theorem takeSoftwareInterrupt (hR : Preorder R) (pc0 : Word) (hw : ∀ addr b s t, s.memWrite addr b = .ok t → R s t)
    (hsp : ∀ s v, R s { s with sp := v }) (hi : ∀ s, R s (s.putFlag .i true)) (hpc : ∀ s pc, R s { s with pc := pc }) :
    Op.Keeps R (Machine.takeSoftwareInterrupt pc0) :=
  bind hR (pushWord hR _ hw hsp) fun _ => bind hR (getState hR) fun _ => bind hR (push hR _ hw hsp) fun _ =>
    bind hR (update hi) fun _ => bind hR (readBy hR _) fun _ => update fun s => hpc s _

theorem returnFromInterrupt (hR : Preorder R) (hsp : ∀ s v, R s { s with sp := v }) (hp : ∀ s v, R s { s with p := v })
    (hpc : ∀ s pc, R s { s with pc := pc }) : Op.Keeps R Machine.returnFromInterrupt :=
  bind hR (pop hR hsp) fun _ => bind hR (update fun s => hp s _) fun _ => bind hR (popWord hR hsp) fun _ =>
    update fun s => hpc s _

end Op.Keeps

/-- What an instruction's body keeps, the instruction keeps, if its frame keeps it too. -/
theorem exec_keeps {R : State → State → Prop} (hR : Preorder R) {i : Instr} (hb : ∀ pc0, Op.Keeps R (i.body pc0))
    (hpc : ∀ s pc, R s { s with pc := pc }) (hrem : ∀ s n, R s { s with remaining := n })
    (hfault : ∀ s f, R s { s with fault := f }) {s t : State} (h : exec i s = .next t) : R s t := by
  rw [exec_eq_runInstr] at h
  have hk := hb s.pc { s with pc := s.pc + BitVec.ofNat 16 i.length }
  rcases runInstr_cases i.length i.row.base (i.body s.pc) s with ⟨extra, u, hu, he⟩ | ⟨f, u, hu, he⟩ <;>
    rw [h] at he <;> cases he <;> rw [hu] at hk
  · exact hR.trans _ _ _ (hpc s _) (hR.trans _ _ _ hk (hrem u _))
  · exact hR.trans _ _ _ (hpc s _) (hR.trans _ _ _ hk (hfault u _))

/-- An instruction whose body runs to its end. -/
theorem exec_of_body_ok {i : Instr} {s t : State} {extra : Nat}
    (h : i.body s.pc { s with pc := s.pc + BitVec.ofNat 16 i.length } = .ok extra t) :
    exec i s = .next { t with remaining := i.row.base - 1 + extra } :=
  (exec_eq_runInstr i s).trans (runInstr_ok h)

/-- An instruction whose body ends in a fault. -/
theorem exec_of_body_error {i : Instr} {s t : State} {f : Fault}
    (h : i.body s.pc { s with pc := s.pc + BitVec.ofNat 16 i.length } = .error f t) :
    exec i s = .next { t with fault := some f } :=
  (exec_eq_runInstr i s).trans (runInstr_error h)

/-- Every instruction answers a next state. -/
theorem exec_next (i : Instr) (s : State) : ∃ t, exec i s = .next t := by
  rw [exec_eq_runInstr]
  rcases runInstr_cases i.length i.row.base (i.body s.pc) s with ⟨_, _, -, h⟩ | ⟨_, _, -, h⟩ <;> exact ⟨_, h⟩

/-! ## What every instruction keeps -/

/-- A field is kept by keeping its value. -/
theorem Preorder.ofField {α : Type} (g : State → α) : Preorder (fun s t => g t = g s) :=
  ⟨fun _ => rfl, fun _ _ _ h k => k.trans h⟩

/-- The mnemonics that write through the bus (`Instr.writes`). -/
def memWriters : List Mnemonic := [.sta, .stx, .sty, .inc, .dec, .asl, .lsr, .rol, .ror, .pha, .php, .jsr, .brk]

/-- The mnemonics of the shifts and rotates. -/
def shiftMnemonics : List Mnemonic := [.asl, .lsr, .rol, .ror]

/-- ROL. -/
theorem Op.Keeps.rol {R : State → State → Prop} (hR : Preorder R) (hp : ∀ s v, R s { s with p := v }) (d)
    (hw : ∀ addr b s t, s.memWrite addr b = .ok t → R s t) (ha : d = .acc → ∀ s v, R s { s with a := v }) : Op.Keeps R (opRol d) :=
  Op.Keeps.bind hR (Op.Keeps.getState hR) fun _ => Op.Keeps.rmwInstr hR _ _ hw ha fun _ _ => hp _ _
/-- ROR. -/
theorem Op.Keeps.ror {R : State → State → Prop} (hR : Preorder R) (hp : ∀ s v, R s { s with p := v }) (d)
    (hw : ∀ addr b s t, s.memWrite addr b = .ok t → R s t) (ha : d = .acc → ∀ s v, R s { s with a := v }) : Op.Keeps R (opRor d) :=
  Op.Keeps.bind hR (Op.Keeps.getState hR) fun _ => Op.Keeps.rmwInstr hR _ _ hw ha fun _ _ => hp _ _

/-- Everything an instruction's body can do, in one induction: whatever P and PC do not matter to, and every register and bus write
that its mnemonic is listed for keeps, the body keeps. -/
theorem body_keeps {R : State → State → Prop} (hR : Preorder R) (i : Instr) (pc0 : Word)
   (hw : i.mnemonic ∈ memWriters → ∀ addr b s t, s.memWrite addr b = .ok t → R s t)
   (hp : ∀ s v, R s { s with p := v })
   (hpc : i.mnemonic ∈ controlTransfers → ∀ s v, R s { s with pc := v })
   (ha : i.mnemonic ∈ writersOfA → ((i.mnemonic ∈ shiftMnemonics) → i.dst = .acc) → ∀ s v, R s { s with a := v })
   (hx : i.mnemonic ∈ writersOfX → ∀ s v, R s { s with x := v })
   (hy : i.mnemonic ∈ writersOfY → ∀ s v, R s { s with y := v })
   (hsp : i.mnemonic ∈ writersOfSp → ∀ s v, R s { s with sp := v }) : Op.Keeps R (i.body pc0) := by
  have hap : ∀ s v w, i.mnemonic ∈ writersOfA → ((i.mnemonic ∈ shiftMnemonics) → i.dst = .acc) → R s { s with a := v, p := w } :=
    fun s v w h h' => hR.trans _ _ _ (ha h h' s v) (hp _ w)
  have hxp : ∀ s v w, i.mnemonic ∈ writersOfX → R s { s with x := v, p := w } :=
    fun s v w h => hR.trans _ _ _ (hx h s v) (hp _ w)
  have hyp : ∀ s v w, i.mnemonic ∈ writersOfY → R s { s with y := v, p := w } :=
    fun s v w h => hR.trans _ _ _ (hy h s v) (hp _ w)
  unfold Instr.body
  split <;> rename_i hm <;> rw [hm] at hw hpc ha hx hy hsp hap hxp hyp
  all_goals first
    | exact Op.Keeps.readInstr hR _ _ fun _ _ => hp _ _
    | exact Op.Keeps.readInstr hR _ _ fun _ _ => hap _ _ _ (by decide) (fun h => absurd h (by decide))
    | exact Op.Keeps.readInstr hR _ _ fun _ _ => hxp _ _ _ (by decide)
    | exact Op.Keeps.readInstr hR _ _ fun _ _ => hyp _ _ _ (by decide)
    | exact Op.Keeps.storeInstr hR _ _ (hw (by decide))
    | exact Op.Keeps.registerInstr hR fun _ => hp _ _
    | exact Op.Keeps.registerInstr hR fun _ => hap _ _ _ (by decide) (fun h => absurd h (by decide))
    | exact Op.Keeps.registerInstr hR fun _ => hxp _ _ _ (by decide)
    | exact Op.Keeps.registerInstr hR fun _ => hyp _ _ _ (by decide)
    | exact Op.Keeps.registerInstr hR fun _ => hsp (by decide) _ _
    | exact Op.Keeps.rmwInstr hR _ _ (hw (by decide)) (fun h s v => ha (by decide) (fun _ => h) s v) fun _ _ => hp _ _
    | exact Op.Keeps.rmwInstr hR _ _ (hw (by decide)) (fun h s v => by cases h) fun _ _ => hp _ _
    | exact Op.Keeps.branchIf hR _ _ _ (hpc (by decide))
    | exact Op.Keeps.pure hR _
    | exact Op.Keeps.bind hR (Op.Keeps.getState hR) fun _ => Op.Keeps.bind hR (Op.Keeps.push hR _ (hw (by decide)) (hsp (by decide))) fun _ => Op.Keeps.pure hR _
    | exact Op.Keeps.bind hR (Op.Keeps.pop hR (hsp (by decide))) fun _ => Op.Keeps.bind hR (Op.Keeps.update fun _ => hap _ _ _ (by decide) (fun h => absurd h (by decide))) fun _ => Op.Keeps.pure hR _
    | exact Op.Keeps.bind hR (Op.Keeps.pop hR (hsp (by decide))) fun _ => Op.Keeps.bind hR (Op.Keeps.update fun _ => hp _ _) fun _ => Op.Keeps.pure hR _
    | exact Op.Keeps.rol hR hp _ (hw (by decide)) (fun h s v => ha (by decide) (fun _ => h) s v)
    | exact Op.Keeps.ror hR hp _ (hw (by decide)) (fun h s v => ha (by decide) (fun _ => h) s v)
    | exact Op.Keeps.bind hR (Op.Keeps.pushWord hR _ (hw (by decide)) (hsp (by decide))) fun _ => Op.Keeps.bind hR (Op.Keeps.update fun _ => hpc (by decide) _ _) fun _ => Op.Keeps.pure hR _
    | exact Op.Keeps.bind hR (Op.Keeps.popWord hR (hsp (by decide))) fun _ => Op.Keeps.bind hR (Op.Keeps.update fun _ => hpc (by decide) _ _) fun _ => Op.Keeps.pure hR _
    | exact Op.Keeps.bind hR (Op.Keeps.takeSoftwareInterrupt hR _ (hw (by decide)) (hsp (by decide)) (fun _ => hp _ _) (hpc (by decide))) fun _ => Op.Keeps.pure hR _
    | exact Op.Keeps.bind hR (Op.Keeps.returnFromInterrupt hR (hsp (by decide)) hp (hpc (by decide))) fun _ => Op.Keeps.pure hR _
    | skip
  -- JMP, by its mode
  split
  · exact Op.Keeps.bind hR (Op.Keeps.readBy hR _) fun _ => Op.Keeps.bind hR (Op.Keeps.update fun _ => hpc (by decide) _ _) fun _ => Op.Keeps.pure hR _
  · exact Op.Keeps.registerInstr hR fun _ => hpc (by decide) _ _

/-! ## The instruction's own operand, and its result -/

/-- The state an instruction's body runs in: PC advanced. -/
def advanced (s : State) (i : Instr) : State := { s with pc := s.pc + BitVec.ofNat 16 i.length }

/-- A read instruction has the operand its mode says. -/
theorem src_eq {i : Instr} {src : Src} (h : i.mode = src.mode) : i.src = src := by
  unfold Instr.src; rw [h]; cases src <;> rfl

/-- A memory mode is the mode. -/
theorem memMode_eq {i : Instr} {m} (h : i.mode = .mem m) : i.memMode = m := by
  unfold Instr.memMode; rw [h]

/-- A read-modify-write of memory. -/
theorem dst_eq_mem {i : Instr} {m} (h : i.mode = .mem m) : i.dst = .mem m := by
  unfold Instr.dst; rw [h]

/-- A read-modify-write of the accumulator. -/
theorem dst_eq_acc {i : Instr} (h : i.mode = .acc) : i.dst = .acc := by
  unfold Instr.dst; rw [h]

/-- The displacement. -/
theorem disp_eq {i : Instr} {m} (h : i.mode = .rel m) : i.disp = m := by
  unfold Instr.disp; rw [h]

/-- The result of a read instruction whose operand can be read. -/
theorem exec_read {i : Instr} {s : State} {src m extra} (f : Byte → State → State) (hm : i.mode = src.mode)
   (hl : s.loadOperand i.row.sensitive src = .ok (m, extra)) (hb : i.body s.pc = readInstr i.src i.row.sensitive f) :
   exec i s = .next { f m (advanced s i) with remaining := i.row.base - 1 + extra } := by
  refine exec_of_body_ok ?_
  rw [hb, src_eq hm]
  exact readInstr_ok ((loadOperand_congr (s := s) rfl rfl rfl rfl rfl _ _).trans hl)

/-- The result of a store that can be made. -/
theorem exec_store {i : Instr} {s t : State} {m ea} {v : State → Byte} (hv : ∀ pc, v { s with pc := pc } = v s) (hm : i.mode = .mem m) (ha : s.effAddr m = .ok ea)
   (hw : s.memWrite ea.addr (v s) = .ok t) (hb : i.body s.pc = storeInstr i.memMode v) : exec i s = .next { (t : State) with pc := s.pc + BitVec.ofNat 16 i.length, remaining := i.row.base - 1 } := by
  have := exec_of_body_ok (i := i) (s := s) (t := { t with pc := s.pc + BitVec.ofNat 16 i.length }) (extra := 0) (by
    rw [hb, memMode_eq hm]
    refine storeInstr_ok ((effAddr_congr (s := s) rfl rfl rfl rfl rfl m).trans ha) ?_
    rw [hv]; exact memWrite_pc hw _)
  exact this

/-- The result of a read-modify-write of memory. -/
theorem exec_rmw_mem {i : Instr} {s t : State} {m ea old q} {f : Byte → Byte} {fl} (hm : i.mode = .mem m) (ha : s.effAddr m = .ok ea) (hr : s.memRead ea.addr = .ok old)
   (hw : s.memWrite ea.addr (f old) = .ok t) (hb : i.body s.pc (advanced s i) = rmwInstr i.dst f fl (advanced s i)) (hfl : ∀ u, u.p = s.p → fl old u = { u with p := q }) : exec i s = .next { ({ t with p := q } : State) with pc := s.pc + BitVec.ofNat 16 i.length, remaining := i.row.base - 1 } := by
  have := exec_of_body_ok (i := i) (s := s) (t := { t with pc := s.pc + BitVec.ofNat 16 i.length, p := q }) (extra := 0) (by
    refine hb.trans ?_
    rw [dst_eq_mem hm]
    have := rmwInstr_mem (f := f) (flags := fl) ((effAddr_congr (s := s) (t := advanced s i) rfl rfl rfl rfl rfl m).trans ha) ((memRead_congr (s := s) (t := advanced s i) rfl rfl rfl _).trans hr) (memWrite_pc hw _)
    rw [this, hfl { t with pc := s.pc + BitVec.ofNat 16 i.length } (memWrite_sameProcessor hw).p])
  exact this

/-- The result of a read-modify-write of the accumulator. -/
theorem exec_rmw_acc {i : Instr} {s : State} {q} {f : Byte → Byte} {fl} (hm : i.mode = .acc)
   (hb : i.body s.pc (advanced s i) = rmwInstr i.dst f fl (advanced s i)) (hfl : ∀ u, u.p = s.p → fl s.a u = { u with p := q }) : exec i s = .next { ({ s with a := f s.a, p := q } : State) with pc := s.pc + BitVec.ofNat 16 i.length, remaining := i.row.base - 1 } := by
  have := exec_of_body_ok (i := i) (s := s) (t := { s with pc := s.pc + BitVec.ofNat 16 i.length, a := f s.a, p := q }) (extra := 0) (by
    refine hb.trans ?_
    rw [dst_eq_acc hm, rmwInstr_acc]
    rw [show (advanced s i).a = s.a from rfl, hfl _ (by rfl)]; rfl)
  exact this

/-! ## Cycles -/

/-- What every run of the pseudocode to its end answers. -/
def Op.Answers {α} (Q : α → Prop) (x : Op α) : Prop := ∀ s v t, x s = .ok v t → Q v

/-- What the last part answers. -/
theorem Op.Answers.bind {α β} {Q : β → Prop} {x : Op α} {f : α → Op β} (h : ∀ v, Op.Answers Q (f v)) : Op.Answers Q (x >>= f) := by
  intro s v t hx
  rw [bind_run] at hx
  cases hxs : x s with
  | ok w u => rw [hxs] at hx; exact h w u v t hx
  | error e u => rw [hxs] at hx; cases hx

/-- A value answered. -/
theorem Op.Answers.pure {α} {Q : α → Prop} {v : α} (h : Q v) : Op.Answers Q (pure v : Op α) := by
  intro s w t hx; cases hx; exact h

/-- Reading an operand costs at most one extra cycle, and none for an opcode that is not sensitive (R105). -/
theorem loadOperand_extra {s : State} {sens src v e} (h : s.loadOperand sens src = .ok (v, e)) : e ≤ 1 ∧ (sens = false → e = 0) := by
  cases src with
  | imm w => cases h; simp
  | mem m =>
    simp only [State.loadOperand] at h
    cases ha : s.effAddr m with
    | error f => rw [ha] at h; cases h
    | ok ea =>
      rw [ha] at h
      cases hr : s.memRead ea.addr with
      | error f => simp only [bind, Except.bind, hr] at h; cases h
      | ok b =>
        simp only [bind, Except.bind, hr] at h; cases h
        unfold crossPenalty
        constructor
        · split <;> omega
        · intro h; simp [h]

/-- So does a read instruction. -/
theorem Op.Answers.readInstr {src sens f} : Op.Answers (fun e => e ≤ 1 ∧ (sens = false → e = 0)) (readInstr src sens f) := by
  intro s v t hx
  cases h : s.loadOperand sens src with
  | error e => rw [readInstr_error h] at hx; cases hx
  | ok p => obtain ⟨m, e⟩ := p; rw [readInstr_ok h] at hx; cases hx; exact loadOperand_extra h

/-- The extra cycles of any instruction. -/
theorem body_extra (i : Instr) (pc0) : Op.Answers (fun e => e ≤ 2 ∧ (i.row.sensitive = false → i.mode.tag ≠ .rel → e = 0) ∧ (i.mode.tag ≠ .rel → e ≤ 1)) (i.body pc0) := by
  unfold Instr.body
  have hrd : ∀ src f, Op.Answers (fun e => e ≤ 2 ∧ (i.row.sensitive = false → i.mode.tag ≠ .rel → e = 0) ∧ (i.mode.tag ≠ .rel → e ≤ 1)) (readInstr src i.row.sensitive f) :=
    fun src f s v t hx => by have := Op.Answers.readInstr s v t hx; simp only at this ⊢; exact ⟨by omega, fun h _ => this.2 h, fun _ => this.1⟩
  have h0 : (fun e => e ≤ 2 ∧ (i.row.sensitive = false → i.mode.tag ≠ .rel → e = 0) ∧ (i.mode.tag ≠ .rel → e ≤ 1)) 0 := ⟨by omega, fun _ _ => rfl, fun _ => by omega⟩
  have hrel : i.mnemonic ∈ [.bpl, .bmi, .bvc, .bvs, .bcc, .bcs, .bne, .beq] → i.mode.tag = .rel := by
    clear hrd h0; cases i <;> first | (intro _; rfl) | exact fun h => absurd h (of_decide_eq_false rfl)
  have hbr : i.mnemonic ∈ [.bpl, .bmi, .bvc, .bvs, .bcc, .bcs, .bne, .beq] → ∀ c d, Op.Answers (fun e => e ≤ 2 ∧ (i.row.sensitive = false → i.mode.tag ≠ .rel → e = 0) ∧ (i.mode.tag ≠ .rel → e ≤ 1)) (branchIf c pc0 d) := by
    intro h c d
    have := hrel h
    refine Op.Answers.bind fun s => ?_
    split
    · refine Op.Answers.bind fun _ => Op.Answers.pure ⟨?_, fun _ k => absurd this k, fun k => absurd this k⟩
      unfold branchPenalty; split <;> omega
    · exact Op.Answers.pure h0
  split <;> rename_i hm
  all_goals first
    | exact hrd _ _
    | exact Op.Answers.bind fun _ => Op.Answers.pure h0
    | exact Op.Answers.pure h0
    | exact Op.Answers.bind fun _ => Op.Answers.bind fun _ => Op.Answers.pure h0
    | exact Op.Answers.bind fun _ => Op.Answers.bind fun _ => Op.Answers.bind fun _ => Op.Answers.pure h0
    | exact hbr (by rw [hm]; decide) _ _
    | skip
  split
  · exact Op.Answers.bind fun _ => Op.Answers.bind fun _ => Op.Answers.pure h0
  · exact Op.Answers.bind fun _ => Op.Answers.pure h0

/-- The base cycle counts of the table (R84, R87). -/
theorem row_bounds (i : Instr) : 2 ≤ i.row.base ∧ i.row.base ≤ 7 ∧ (i.row.sensitive = true → i.row.base ≤ 5) ∧ (i.mode.tag = .rel → i.row.base = 2) := by
  cases i <;> exact ⟨of_decide_eq_true rfl, of_decide_eq_true rfl, of_decide_eq_true rfl, of_decide_eq_true rfl⟩

/-- A field that neither registers nor the bus are part of. -/
theorem body_keeps_field {α : Type} (g : State → α) (hw : ∀ s t, SameProcessor s t → g t = g s) (h1 : ∀ s v, g { s with p := v } = g s)
   (h2 : ∀ s v, g { s with pc := v } = g s) (h3 : ∀ s v, g { s with a := v } = g s) (h4 : ∀ s v, g { s with x := v } = g s)
   (h5 : ∀ s v, g { s with y := v } = g s) (h6 : ∀ s v, g { s with sp := v } = g s) (i : Instr) (pc0 : Word) : Op.Keeps (fun s t => g t = g s) (i.body pc0) :=
  body_keeps (Preorder.ofField g) i pc0 (fun _ _ _ _ _ h => hw _ _ (memWrite_sameProcessor h)) h1 (fun _ => h2) (fun _ _ => h3) (fun _ => h4) (fun _ => h5) (fun _ => h6)

/-- No instruction changes an input port (R47, R49). -/
theorem exec_port {i : Instr} {s t : State} (h : exec i s = .next t) (k : Fin 14) (hk : 8 ≤ k.val) : t.rreg[k] = s.rreg[k] :=
  exec_keeps (Preorder.ofField fun s => s.rreg[k])
    (fun pc0 => body_keeps (Preorder.ofField fun s => s.rreg[k]) i pc0 (fun _ _ _ _ _ h => memWrite_port h k hk) (fun _ _ => rfl)
      (fun _ _ _ => rfl) (fun _ _ _ _ => rfl) (fun _ _ _ => rfl) (fun _ _ _ => rfl) (fun _ _ _ => rfl))
    (fun _ _ => rfl) (fun _ _ => rfl) (fun _ _ => rfl) h

/-- What an instruction does to `remaining_cycles`, and whether it latches a fault. -/
theorem exec_remaining {i s t} (h : exec i s = .next t) :
   (∃ extra, t.remaining = i.row.base - 1 + extra ∧ 1 ≤ t.remaining ∧ t.remaining ≤ 6 ∧ i.row.base - 1 ≤ t.remaining ∧ t.remaining ≤ i.row.base + 1 ∧ t.fault = s.fault) ∨
   (t.remaining = s.remaining ∧ ∃ f, t.fault = some f) := by
  have hk := body_keeps_field (fun s => (s.remaining, s.fault)) (fun _ _ h => by rw [h.remaining, h.fault]) (fun _ _ => rfl) (fun _ _ => rfl) (fun _ _ => rfl) (fun _ _ => rfl) (fun _ _ => rfl) (fun _ _ => rfl) i s.pc { s with pc := s.pc + BitVec.ofNat 16 i.length }
  have ha := body_extra i s.pc { s with pc := s.pc + BitVec.ofNat 16 i.length }
  obtain ⟨b1, b2, b3, b4⟩ := row_bounds i
  rw [exec_eq_runInstr] at h
  rcases runInstr_cases i.length i.row.base (i.body s.pc) s with ⟨extra, u, hu, he⟩ | ⟨f, u, hu, he⟩ <;>
        rw [h] at he <;> cases he <;> rw [hu] at hk
  · left
    obtain ⟨c1, c2, c3⟩ := ha _ _ hu
    refine ⟨extra, rfl, ?_, ?_, ?_, ?_, congrArg Prod.snd hk⟩
    · simp only; omega
    · simp only
      by_cases hr : i.mode.tag = .rel
      · have := b4 hr; omega
      · cases hs : i.row.sensitive
        · have := c2 hs hr; omega
        · have := b3 hs; have := c3 hr; omega
    · simp only; omega
    · simp only; omega
  · right; exact ⟨congrArg Prod.fst hk, f, rfl⟩

end Sys2Proof.Machine
end

