-- ==== Sys2Proof/Laws/Flags.lean ====
section
/-! SUPPORT. What each computation on the status register does to each flag. -/

namespace Sys2Proof.Machine

/-- A flag written is the flag read, and no other flag is touched. -/
theorem getFlag_setFlag (p : Byte) (f g : Flag) (b : Bool) :
    getFlag (setFlag p f b) g = if g = f then b else getFlag p g := by
  cases b <;> cases f <;> cases g <;> simp [getFlag, setFlag, Flag.bit]

@[simp] theorem getFlag_setFlag_self (p : Byte) (f : Flag) (b : Bool) : getFlag (setFlag p f b) f = b := by
  rw [getFlag_setFlag, if_pos rfl]

theorem getFlag_setFlag_ne (p : Byte) {f g : Flag} (b : Bool) (h : g ≠ f) : getFlag (setFlag p f b) g = getFlag p g := by
  rw [getFlag_setFlag, if_neg h]

/-- Z and N after `SetZN`, and no other flag. -/
theorem getFlag_setZN (p v : Byte) (g : Flag) :
    getFlag (setZN p v) g = if g = .n then v.msb else if g = .z then v == 0#8 else getFlag p g := by
  rw [setZN, getFlag_setFlag, getFlag_setFlag]

/-- The flags after `AddWithCarry`. -/
theorem getFlag_adcFlags (vr : VRule) (p a m : Byte) (g : Flag) :
    getFlag (adcFlags vr p a m) g =
      let r := adcResult a m (getFlag p .c)
      if g = .n then r.msb
      else if g = .z then r == 0#8
      else if g = .v then overflowRule vr a m r
      else if g = .c then decide (255 < adcSum a m (getFlag p .c))
      else getFlag p g := by
  rw [adcFlags, getFlag_setZN, getFlag_setFlag, getFlag_setFlag]

/-- The flags after `Compare`. -/
theorem getFlag_compareFlags (p r m : Byte) (g : Flag) :
    getFlag (compareFlags p r m) g =
      if g = .n then (r - m).msb
      else if g = .z then r == m
      else if g = .c then decide (m.toNat ≤ r.toNat)
      else getFlag p g := by
  rw [compareFlags, getFlag_setFlag, getFlag_setFlag, getFlag_setFlag]

/-- The flags after BIT. -/
theorem getFlag_bitFlags (p a m : Byte) (g : Flag) :
    getFlag (bitFlags p a m) g =
      if g = .v then m.getLsbD 6
      else if g = .n then m.msb
      else if g = .z then a &&& m == 0#8
      else getFlag p g := by
  rw [bitFlags, getFlag_setFlag, getFlag_setFlag, getFlag_setFlag]

/-- The flags after a shift or rotate. -/
theorem getFlag_shiftFlags (p r : Byte) (out : Bool) (g : Flag) :
    getFlag (shiftFlags p r out) g =
      if g = .n then r.msb else if g = .z then r == 0#8 else if g = .c then out else getFlag p g := by
  rw [shiftFlags, getFlag_setZN, getFlag_setFlag]

/-- Two status bytes with the same flags are the same byte: the eight flags are all of P (R13). -/
theorem flags_ext {p q : Byte} (h : ∀ f : Flag, getFlag p f = getFlag q f) : p = q := by
  apply BitVec.eq_of_getLsbD_eq
  intro i hi
  have : i = 0 ∨ i = 1 ∨ i = 2 ∨ i = 3 ∨ i = 4 ∨ i = 5 ∨ i = 6 ∨ i = 7 := by omega
  rcases this with rfl | rfl | rfl | rfl | rfl | rfl | rfl | rfl
  · exact h .c
  · exact h .z
  · exact h .i
  · exact h .d
  · exact h .bl
  · exact h .bh
  · exact h .v
  · exact h .n

/-- Setting I sets bit 2 (R258). -/
theorem setFlag_i_true (p : Byte) : setFlag p .i true = p ||| 0x04 := rfl

/-- Z as a number. -/
theorem beq_zero_iff (v : Byte) : (v == 0#8) = true ↔ v.toNat = 0 := by
  rw [beq_iff_eq, ← BitVec.toNat_inj]; rfl

/-- N as a number. -/
theorem msb_iff (v : Byte) : v.msb = true ↔ 128 ≤ v.toNat := by
  rw [BitVec.msb_eq_decide, decide_eq_true_eq]

end Sys2Proof.Machine
end

