-- ==== Sys2Proof/Laws/PerInstr.lean ====
section
/-! SUPPORT. Statements about every instruction as syntax, one lemma a constructor. -/

namespace Sys2Proof.Laws.EncodedLength

/-- An instruction encodes to as many bytes as its addressing mode's format has, 1 to 3, the first of which is its
row's opcode (spec/30_encoding.md R80, R81). -/
def Statement (i : Instr) : Prop :=
  (encode i).length = i.length ∧ 1 ≤ i.length ∧ i.length ≤ 3 ∧ (encode i).head? = some i.row.opcode

/-- An addressing mode has one operand byte fewer than its format has bytes. -/
theorem operandBytes_length (m : AddrMode) : m.operandBytes.length + 1 = m.tag.length := by
  cases m with
  | mem m => cases m <;> rfl
  | _ => rfl

theorem tag_length_bounds (t : ModeTag) : 1 ≤ t.length ∧ t.length ≤ 3 := by cases t <;> decide

theorem any (i : Instr) : Statement i :=
  ⟨operandBytes_length i.mode, (tag_length_bounds _).1, (tag_length_bounds _).2, rfl⟩

theorem ldaImm (v : Byte) : Statement (.ldaImm v) := any _
theorem ldaZp (zp : Byte) : Statement (.ldaZp zp) := any _
theorem ldaZpx (zp : Byte) : Statement (.ldaZpx zp) := any _
theorem ldaAbs (addr : Word) : Statement (.ldaAbs addr) := any _
theorem ldaAbx (addr : Word) : Statement (.ldaAbx addr) := any _
theorem ldaAby (addr : Word) : Statement (.ldaAby addr) := any _
theorem ldaIzx (zp : Byte) : Statement (.ldaIzx zp) := any _
theorem ldaIzy (zp : Byte) : Statement (.ldaIzy zp) := any _
theorem ldxImm (v : Byte) : Statement (.ldxImm v) := any _
theorem ldxZp (zp : Byte) : Statement (.ldxZp zp) := any _
theorem ldxZpy (zp : Byte) : Statement (.ldxZpy zp) := any _
theorem ldxAbs (addr : Word) : Statement (.ldxAbs addr) := any _
theorem ldxAby (addr : Word) : Statement (.ldxAby addr) := any _
theorem ldyImm (v : Byte) : Statement (.ldyImm v) := any _
theorem ldyZp (zp : Byte) : Statement (.ldyZp zp) := any _
theorem ldyZpx (zp : Byte) : Statement (.ldyZpx zp) := any _
theorem ldyAbs (addr : Word) : Statement (.ldyAbs addr) := any _
theorem ldyAbx (addr : Word) : Statement (.ldyAbx addr) := any _
theorem staZp (zp : Byte) : Statement (.staZp zp) := any _
theorem staZpx (zp : Byte) : Statement (.staZpx zp) := any _
theorem staAbs (addr : Word) : Statement (.staAbs addr) := any _
theorem staAbx (addr : Word) : Statement (.staAbx addr) := any _
theorem staAby (addr : Word) : Statement (.staAby addr) := any _
theorem staIzx (zp : Byte) : Statement (.staIzx zp) := any _
theorem staIzy (zp : Byte) : Statement (.staIzy zp) := any _
theorem stxZp (zp : Byte) : Statement (.stxZp zp) := any _
theorem stxZpy (zp : Byte) : Statement (.stxZpy zp) := any _
theorem stxAbs (addr : Word) : Statement (.stxAbs addr) := any _
theorem styZp (zp : Byte) : Statement (.styZp zp) := any _
theorem styZpx (zp : Byte) : Statement (.styZpx zp) := any _
theorem styAbs (addr : Word) : Statement (.styAbs addr) := any _
theorem tax : Statement (.tax) := any _
theorem tay : Statement (.tay) := any _
theorem txa : Statement (.txa) := any _
theorem tya : Statement (.tya) := any _
theorem tsx : Statement (.tsx) := any _
theorem txs : Statement (.txs) := any _
theorem pha : Statement (.pha) := any _
theorem php : Statement (.php) := any _
theorem pla : Statement (.pla) := any _
theorem plp : Statement (.plp) := any _
theorem oraImm (v : Byte) : Statement (.oraImm v) := any _
theorem oraZp (zp : Byte) : Statement (.oraZp zp) := any _
theorem oraZpx (zp : Byte) : Statement (.oraZpx zp) := any _
theorem oraAbs (addr : Word) : Statement (.oraAbs addr) := any _
theorem oraAbx (addr : Word) : Statement (.oraAbx addr) := any _
theorem oraAby (addr : Word) : Statement (.oraAby addr) := any _
theorem oraIzx (zp : Byte) : Statement (.oraIzx zp) := any _
theorem oraIzy (zp : Byte) : Statement (.oraIzy zp) := any _
theorem andImm (v : Byte) : Statement (.andImm v) := any _
theorem andZp (zp : Byte) : Statement (.andZp zp) := any _
theorem andZpx (zp : Byte) : Statement (.andZpx zp) := any _
theorem andAbs (addr : Word) : Statement (.andAbs addr) := any _
theorem andAbx (addr : Word) : Statement (.andAbx addr) := any _
theorem andAby (addr : Word) : Statement (.andAby addr) := any _
theorem andIzx (zp : Byte) : Statement (.andIzx zp) := any _
theorem andIzy (zp : Byte) : Statement (.andIzy zp) := any _
theorem eorImm (v : Byte) : Statement (.eorImm v) := any _
theorem eorZp (zp : Byte) : Statement (.eorZp zp) := any _
theorem eorZpx (zp : Byte) : Statement (.eorZpx zp) := any _
theorem eorAbs (addr : Word) : Statement (.eorAbs addr) := any _
theorem eorAbx (addr : Word) : Statement (.eorAbx addr) := any _
theorem eorAby (addr : Word) : Statement (.eorAby addr) := any _
theorem eorIzx (zp : Byte) : Statement (.eorIzx zp) := any _
theorem eorIzy (zp : Byte) : Statement (.eorIzy zp) := any _
theorem bitZp (zp : Byte) : Statement (.bitZp zp) := any _
theorem bitAbs (addr : Word) : Statement (.bitAbs addr) := any _
theorem adcImm (v : Byte) : Statement (.adcImm v) := any _
theorem adcZp (zp : Byte) : Statement (.adcZp zp) := any _
theorem adcZpx (zp : Byte) : Statement (.adcZpx zp) := any _
theorem adcAbs (addr : Word) : Statement (.adcAbs addr) := any _
theorem adcAbx (addr : Word) : Statement (.adcAbx addr) := any _
theorem adcAby (addr : Word) : Statement (.adcAby addr) := any _
theorem adcIzx (zp : Byte) : Statement (.adcIzx zp) := any _
theorem adcIzy (zp : Byte) : Statement (.adcIzy zp) := any _
theorem sbcImm (v : Byte) : Statement (.sbcImm v) := any _
theorem sbcZp (zp : Byte) : Statement (.sbcZp zp) := any _
theorem sbcZpx (zp : Byte) : Statement (.sbcZpx zp) := any _
theorem sbcAbs (addr : Word) : Statement (.sbcAbs addr) := any _
theorem sbcAbx (addr : Word) : Statement (.sbcAbx addr) := any _
theorem sbcAby (addr : Word) : Statement (.sbcAby addr) := any _
theorem sbcIzx (zp : Byte) : Statement (.sbcIzx zp) := any _
theorem sbcIzy (zp : Byte) : Statement (.sbcIzy zp) := any _
theorem cmpImm (v : Byte) : Statement (.cmpImm v) := any _
theorem cmpZp (zp : Byte) : Statement (.cmpZp zp) := any _
theorem cmpZpx (zp : Byte) : Statement (.cmpZpx zp) := any _
theorem cmpAbs (addr : Word) : Statement (.cmpAbs addr) := any _
theorem cmpAbx (addr : Word) : Statement (.cmpAbx addr) := any _
theorem cmpAby (addr : Word) : Statement (.cmpAby addr) := any _
theorem cmpIzx (zp : Byte) : Statement (.cmpIzx zp) := any _
theorem cmpIzy (zp : Byte) : Statement (.cmpIzy zp) := any _
theorem cpxImm (v : Byte) : Statement (.cpxImm v) := any _
theorem cpxZp (zp : Byte) : Statement (.cpxZp zp) := any _
theorem cpxAbs (addr : Word) : Statement (.cpxAbs addr) := any _
theorem cpyImm (v : Byte) : Statement (.cpyImm v) := any _
theorem cpyZp (zp : Byte) : Statement (.cpyZp zp) := any _
theorem cpyAbs (addr : Word) : Statement (.cpyAbs addr) := any _
theorem incZp (zp : Byte) : Statement (.incZp zp) := any _
theorem incZpx (zp : Byte) : Statement (.incZpx zp) := any _
theorem incAbs (addr : Word) : Statement (.incAbs addr) := any _
theorem incAbx (addr : Word) : Statement (.incAbx addr) := any _
theorem decZp (zp : Byte) : Statement (.decZp zp) := any _
theorem decZpx (zp : Byte) : Statement (.decZpx zp) := any _
theorem decAbs (addr : Word) : Statement (.decAbs addr) := any _
theorem decAbx (addr : Word) : Statement (.decAbx addr) := any _
theorem inx : Statement (.inx) := any _
theorem iny : Statement (.iny) := any _
theorem dex : Statement (.dex) := any _
theorem dey : Statement (.dey) := any _
theorem aslAcc : Statement (.aslAcc) := any _
theorem aslZp (zp : Byte) : Statement (.aslZp zp) := any _
theorem aslZpx (zp : Byte) : Statement (.aslZpx zp) := any _
theorem aslAbs (addr : Word) : Statement (.aslAbs addr) := any _
theorem aslAbx (addr : Word) : Statement (.aslAbx addr) := any _
theorem lsrAcc : Statement (.lsrAcc) := any _
theorem lsrZp (zp : Byte) : Statement (.lsrZp zp) := any _
theorem lsrZpx (zp : Byte) : Statement (.lsrZpx zp) := any _
theorem lsrAbs (addr : Word) : Statement (.lsrAbs addr) := any _
theorem lsrAbx (addr : Word) : Statement (.lsrAbx addr) := any _
theorem rolAcc : Statement (.rolAcc) := any _
theorem rolZp (zp : Byte) : Statement (.rolZp zp) := any _
theorem rolZpx (zp : Byte) : Statement (.rolZpx zp) := any _
theorem rolAbs (addr : Word) : Statement (.rolAbs addr) := any _
theorem rolAbx (addr : Word) : Statement (.rolAbx addr) := any _
theorem rorAcc : Statement (.rorAcc) := any _
theorem rorZp (zp : Byte) : Statement (.rorZp zp) := any _
theorem rorZpx (zp : Byte) : Statement (.rorZpx zp) := any _
theorem rorAbs (addr : Word) : Statement (.rorAbs addr) := any _
theorem rorAbx (addr : Word) : Statement (.rorAbx addr) := any _
theorem jmpAbs (addr : Word) : Statement (.jmpAbs addr) := any _
theorem jmpInd (ptr : Word) : Statement (.jmpInd ptr) := any _
theorem jsr (addr : Word) : Statement (.jsr addr) := any _
theorem rts : Statement (.rts) := any _
theorem bpl (disp : Byte) : Statement (.bpl disp) := any _
theorem bmi (disp : Byte) : Statement (.bmi disp) := any _
theorem bvc (disp : Byte) : Statement (.bvc disp) := any _
theorem bvs (disp : Byte) : Statement (.bvs disp) := any _
theorem bcc (disp : Byte) : Statement (.bcc disp) := any _
theorem bcs (disp : Byte) : Statement (.bcs disp) := any _
theorem bne (disp : Byte) : Statement (.bne disp) := any _
theorem beq (disp : Byte) : Statement (.beq disp) := any _
theorem clc : Statement (.clc) := any _
theorem sec : Statement (.sec) := any _
theorem cli : Statement (.cli) := any _
theorem sei : Statement (.sei) := any _
theorem cld : Statement (.cld) := any _
theorem sed : Statement (.sed) := any _
theorem clv : Statement (.clv) := any _
theorem nop : Statement (.nop) := any _
theorem brk : Statement (.brk) := any _
theorem rti : Statement (.rti) := any _

end Sys2Proof.Laws.EncodedLength
end

