-- ==== Sys2Proof/Laws/Run.lean ====
section
/-! SUPPORT. Runs of the machine, one step at a time. -/

namespace Sys2Proof.Machine

theorem run_zero (M : Host.Core) (s : M.State) : M.run 0 s = .next s := by
  simp only [Host.Core.run]

/-- A run that begins with a step to a next state. -/
theorem run_succ_of_step (M : Host.Core) {s u : M.State} (k : Nat) (h : M.step s = .next u) :
    M.run (k + 1) s = M.run k u := by
  simp only [Host.Core.run, h]

/-- A run is a shorter run and one step more. -/
theorem run_succ_of_run (M : Host.Core) {s u : M.State} {k : Nat} (h : M.run k s = .next u) :
    M.run (k + 1) s = M.step u := by
  induction k generalizing s with
  | zero =>
    rw [run_zero] at h
    cases h
    simp only [Host.Core.run]
    cases M.step u <;> rfl
  | succ k ih =>
    cases hs : M.step s with
    | next v =>
      rw [run_succ_of_step M _ hs] at h ⊢
      exact ih h
    | fault f => simp only [Host.Core.run, hs] at h; cases h
    | refused r => simp only [Host.Core.run, hs] at h; cases h

end Sys2Proof.Machine
end

