-- ==== Sys2Proof/Laws/Step.lean ====
section
/-! SUPPORT. What a step can do, once for all (`step_cases`), and the decoder read through its table. -/

namespace Sys2Proof.Machine

/-- The environment changes the read side and its own queue, nothing else. -/
theorem takeInputs_eq (s : State) : s.takeInputs = { s with rreg := s.takeInputs.rreg, inputs := s.inputs.tail } := by
  unfold State.takeInputs
  cases hi : s.inputs with
  | nil => simp only [List.tail_nil]; rw [← hi]
  | cons a l => rfl

/-- Everything a step can do: a halted machine stays; a tick that executes nothing counts, and a RETIRING one also counts down; a FETCHING
one executes an instruction or latches the fault of its fetch. -/
theorem step_cases (s : State) :
   (∃ f, s.fault = some f ∧ step s = .next s) ∨
   (s.fault = none ∧ ¬ s.fetching ∧ step s = .next (({ s.takeInputs with remaining := if s.div = 0 ∧ s.suspended = false then s.remaining - 1 else s.remaining } : State).count)) ∨
   (s.fetching ∧ ∃ i t, s.takeInputs.fetch = .ok i ∧ exec i s.takeInputs = .next t ∧ step s = .next t.count) ∨
   (s.fetching ∧ ∃ f, s.takeInputs.fetch = .error f ∧ step s = .next ({ s.takeInputs with fault := some f } : State).count) := by
  cases hf : s.fault with
  | some f => left; exact ⟨f, rfl, by simp [step, masterTick, hf]⟩
  | none =>
    have e := takeInputs_eq s
    have ef : s.takeInputs.fault = none := by rw [e]; exact hf
    have ed : s.takeInputs.div = s.div := by rw [e]
    have es : s.takeInputs.suspended = s.suspended := by rw [e]
    have er : s.takeInputs.remaining = s.remaining := by rw [e]
    have hrec : ({ s.takeInputs with remaining := s.remaining } : State) = s.takeInputs := by rw [← er]
    right
    simp only [step, masterTick, advance, tick, hf, ef, ed, es, er, Option.isSome_none, Bool.false_eq_true, if_false]
    by_cases hd : s.div = 0
    · cases hs : s.suspended with
      | true =>
        left
        refine ⟨trivial, fun h => by simp [State.fetching, hs] at h, ?_⟩
        simp [hd]; congr 1; rw [e]; simp [hf, hd, hs]
      | false =>
        by_cases hr : 0 < s.remaining
        · left
          refine ⟨trivial, fun h => by have := h.2.2.1; omega, ?_⟩
          simp [hd, hr]
        · right
          have hfe : s.fetching := ⟨hf, hs, by omega, hd⟩
          cases hfetch : s.takeInputs.fetch with
          | ok i => left; obtain ⟨t, ht⟩ := exec_next i s.takeInputs; refine ⟨hfe, i, t, rfl, ht, ?_⟩; simp [hd, hr, ht]
          | error f => right; refine ⟨hfe, f, rfl, ?_⟩; simp [hd, hr]
    · left
      refine ⟨trivial, fun h => hd h.2.2.2, ?_⟩
      simp [hd]; congr 1; rw [e]; simp [hf]

/-- The fetch of an instruction whose bytes can be read. -/
theorem fetch_ok {s : State} {i : Instr} {bytes : List Byte} (h : decode bytes = .ok (i, []))
    (hr : ∀ k b, bytes[k]? = some b → s.memRead (s.pc + BitVec.ofNat 16 k) = .ok b) : s.fetch = .ok i := by
  match bytes, h with
  | [], h => cases h
  | op :: bs, h =>
    have h0 := hr 0 op rfl
    rw [show s.pc + BitVec.ofNat 16 0 = s.pc by simp] at h0
    simp only [decode] at h
    unfold State.fetch
    rcases hop : opcodeTable op with _ | (j | f | f) <;> rw [hop] at h
    · cases h
    · cases h; simp only [h0, bind, Except.bind, hop]; rfl
    · match bs, h with
      | [b], h => cases h; have h1 : s.memRead (s.pc + 1) = _ := hr 1 b rfl
                  simp only [h0, h1, bind, Except.bind, hop]; rfl
    · match bs, h with
      | [b, c], h => cases h; have h1 : s.memRead (s.pc + 1) = _ := hr 1 b rfl
                     have h2 : s.memRead (s.pc + 2) = _ := hr 2 c rfl
                     simp only [h0, h1, h2, bind, Except.bind, hop]; rfl

end Sys2Proof.Machine
end

