-- ==== Sys2Proof/Laws/Writes.lean ====
section
/-! SUPPORT. What an instruction does to the bus, once for all: it writes its addresses in order, all of them unless it faults
(`exec_wrote`). -/

namespace Sys2Proof.Machine

/-- The parts of the state that bus writes reach, and the parameters that say where, are the same. -/
structure SameBus (s t : State) : Prop where
  cfg : t.cfg = s.cfg
  mem : t.mem = s.mem
  wreg : t.wreg = s.wreg
  rreg : t.rreg = s.rreg
  suspended : t.suspended = s.suspended

/-- Steps that leave the bus alone compose. -/
theorem sameBus_preorder : Preorder SameBus := ⟨fun _ => ⟨rfl, rfl, rfl, rfl, rfl⟩, fun _ _ _ h k =>
  ⟨k.1.trans h.1, k.2.trans h.2, k.3.trans h.3, k.4.trans h.4, k.5.trans h.5⟩⟩

/-- The second state follows from the first by bus writes at these addresses, in this order, and by nothing else on the bus. -/
def Wrote : List Word → State → State → Prop
  | [], s, t => SameBus s t
  | a :: w, s, t => ∃ u b v, SameBus s u ∧ u.memWrite a b = .ok v ∧ Wrote w v t

/-- What leaves the bus alone may follow. -/
theorem Wrote.after {w s t u} (h : Wrote w s t) (k : SameBus t u) : Wrote w s u := by
  induction w generalizing s with
  | nil => exact sameBus_preorder.trans _ _ _ h k
  | cons a w ih => obtain ⟨x, b, v, h1, h2, h3⟩ := h; exact ⟨x, b, v, h1, h2, ih h3⟩

/-- What leaves the bus alone may come first. -/
theorem Wrote.before {w s t u} (k : SameBus s t) (h : Wrote w t u) : Wrote w s u := by
  cases w with
  | nil => exact sameBus_preorder.trans _ _ _ k h
  | cons a w => obtain ⟨x, b, v, h1, h2, h3⟩ := h; exact ⟨x, b, v, sameBus_preorder.trans _ _ _ k h1, h2, h3⟩

/-- What a body wrote. -/
def BodyWrote (ws : List Word) (s : State) : EStateM.Result Fault State Nat → Prop
  | .ok _ t => Wrote ws s t
  | .error _ t => ∃ w, w <+: ws ∧ Wrote w s t

/-- Setting PC leaves the bus alone. -/
theorem sameBus_pc (s : State) (pc) : SameBus s { s with pc := pc } := ⟨rfl, rfl, rfl, rfl, rfl⟩

/-- A store writes at its effective address. -/
theorem store_wrote (m : MemMode) (v : State → Byte) (s : State) :
    BodyWrote (match s.effAddr m with | .ok ea => [ea.addr] | .error _ => []) s (storeInstr m v s) := by
  cases ha : s.effAddr m with
  | error e => rw [storeInstr_pointer_error ha]; exact ⟨[], List.prefix_rfl, sameBus_preorder.refl s⟩
  | ok ea =>
    cases hw : s.memWrite ea.addr (v s) with
    | error e => rw [storeInstr_write_error ha hw]; exact ⟨[], List.nil_prefix, sameBus_preorder.refl s⟩
    | ok t => rw [storeInstr_ok ha hw]; exact ⟨s, _, t, sameBus_preorder.refl s, hw, sameBus_preorder.refl t⟩

/-- A read-modify-write in memory writes at its effective address, in the accumulator nowhere. -/
theorem rmw_wrote (d : Dst) (f : Byte → Byte) (flags : Byte → State → State) (s : State) (hf : ∀ o t, SameBus t (flags o t)) :
    BodyWrote (match d with | .acc => [] | .mem m => match s.effAddr m with | .ok ea => [ea.addr] | .error _ => []) s (rmwInstr d f flags s) := by
  cases d with
  | acc => rw [rmwInstr_acc]; exact sameBus_preorder.trans s { s with a := f s.a } _ ⟨rfl, rfl, rfl, rfl, rfl⟩ (hf _ _)
  | mem m =>
  cases ha : s.effAddr m with
  | error e => simp only [ha]; rw [rmwInstr_pointer_error ha]; exact ⟨[], List.prefix_rfl, sameBus_preorder.refl s⟩
  | ok ea =>
    cases hr : s.memRead ea.addr with
    | error e => rw [rmwInstr_read_error ha hr]; exact ⟨[], List.nil_prefix, sameBus_preorder.refl s⟩
    | ok old =>
      obtain ⟨t, hw⟩ := memWrite_of_memRead hr (f old)
      simp only [ha]; rw [rmwInstr_mem ha hr hw]; exact ⟨s, _, t, sameBus_preorder.refl s, hw, hf _ _⟩

/-- A push, whatever it pushes. -/
theorem push_cases (b : Byte) (s : State) : (∃ t, s.memWrite (stackAddr s.sp) b = .ok t ∧ push b s = .ok () { t with sp := s.sp - 1 }) ∨
   ∃ e, push b s = .error e s := by
  cases h : s.memWrite (stackAddr s.sp) b with
  | ok t => exact .inl ⟨t, rfl, push_ok h⟩
  | error e => exact .inr ⟨e, push_error h⟩

/-- A pull: it reads the byte above SP and raises SP, or the read fails. -/
theorem pop_cases (s : State) : (∃ b, s.memRead (stackAddr (s.sp+1)) = .ok b ∧ pop s = .ok b { s with sp := s.sp + 1 }) ∨
   ∃ e, pop s = .error e { s with sp := s.sp + 1 } := by
  cases h : s.memRead (stackAddr (s.sp + 1)) with
  | ok t => exact .inl ⟨t, rfl, pop_ok h⟩
  | error e => exact .inr ⟨e, pop_error h⟩

/-- A push writes at the stack address, and then what follows it writes. -/
theorem push_then_wrote (b : Byte) (s : State) (k : Op Nat) (ws) (h : ∀ t, s.memWrite (stackAddr s.sp) b = .ok t → BodyWrote ws { t with sp := s.sp - 1 } (k { t with sp := s.sp - 1 })) :
  BodyWrote (stackAddr s.sp :: ws) s ((push b >>= fun _ => k) s) := by
  rw [bind_run]
  rcases push_cases b s with ⟨t, hw, hp⟩ | ⟨e, hp⟩ <;> rw [hp]
  · simp only
    have := h t hw
    have hs : SameBus t { t with sp := s.sp - 1 } := ⟨rfl, rfl, rfl, rfl, rfl⟩
    cases hk : k { t with sp := s.sp - 1 } with
    | ok n u => rw [hk] at this; exact ⟨s, b, t, sameBus_preorder.refl s, hw, Wrote.before hs this⟩
    | error e u =>
       rw [hk] at this
       obtain ⟨w, hpre, hww⟩ := this
       exact ⟨stackAddr s.sp :: w, (List.cons_prefix_cons.mpr ⟨rfl, hpre⟩), s, b, t, sameBus_preorder.refl s, hw, Wrote.before hs hww⟩
  · exact ⟨[], List.nil_prefix, sameBus_preorder.refl s⟩

/-- An operation that leaves the bus alone writes nowhere. -/
theorem keeps_wrote {x : Op Nat} (h : Op.Keeps SameBus x) (s) : BodyWrote [] s (x s) := by
  have := h s
  cases hx : x s with
  | ok n t => rw [hx] at this; exact this
  | error e t => rw [hx] at this; exact ⟨[], List.prefix_rfl, this⟩

/-- Where an instruction writes does not depend on PC. -/
theorem writes_pc (i : Instr) (s : State) (pc) : i.writes { s with pc := pc } = i.writes s := by
  unfold Instr.writes
  split <;> rfl

/-- The stores and the memory increments address memory. -/
theorem mode_store : ∀ i : Instr, i.mnemonic ∈ [.sta, .stx, .sty, .inc, .dec] → i.mode = .mem i.memMode := by
  intro i; cases i <;> first | (intro h; rfl) | (intro h; exact absurd h (of_decide_eq_false rfl))

/-- The shifts address their destination. -/
theorem mode_rmw : ∀ i : Instr, i.mnemonic ∈ [.asl, .lsr, .rol, .ror] → i.mode = i.dst.mode := by
  intro i; cases i <;> first | (intro h; rfl) | (intro h; exact absurd h (of_decide_eq_false rfl))

/-- Every instruction writes exactly where `Instr.writes` says. -/
theorem body_wrote (i : Instr) (pc0 : Word) (s : State) : BodyWrote (i.writes s) s (i.body pc0 s) := by
  by_cases hn : i.mnemonic ∈ memWriters
  · have hmode := mode_store i
    have hrmw := mode_rmw i
    simp only [memWriters, List.mem_cons, List.not_mem_nil, or_false] at hn
    rcases hn with hm | hm | hm | hm | hm | hm | hm | hm | hm | hm | hm | hm | hm <;>
      simp only [Instr.writes, Instr.body, hm]
    · rw [hmode (by rw [hm]; decide)]; exact store_wrote _ _ _
    · rw [hmode (by rw [hm]; decide)]; exact store_wrote _ _ _
    · rw [hmode (by rw [hm]; decide)]; exact store_wrote _ _ _
    · rw [hmode (by rw [hm]; decide)]; exact rmw_wrote (.mem _) _ _ _ fun _ _ => ⟨rfl, rfl, rfl, rfl, rfl⟩
    · rw [hmode (by rw [hm]; decide)]; exact rmw_wrote (.mem _) _ _ _ fun _ _ => ⟨rfl, rfl, rfl, rfl, rfl⟩
    · rw [hrmw (by rw [hm]; decide)]; have := rmw_wrote i.dst aslByte (fun old s => { s with p := shiftFlags s.p (aslByte old) (old.getLsbD 7) }) s fun _ _ => ⟨rfl, rfl, rfl, rfl, rfl⟩
      cases hd : i.dst <;> rw [hd] at this <;> exact this
    · rw [hrmw (by rw [hm]; decide)]; have := rmw_wrote i.dst lsrByte (fun old s => { s with p := shiftFlags s.p (lsrByte old) (old.getLsbD 0) }) s fun _ _ => ⟨rfl, rfl, rfl, rfl, rfl⟩
      cases hd : i.dst <;> rw [hd] at this <;> exact this
    · rw [hrmw (by rw [hm]; decide)]; have := rmw_wrote i.dst (fun old => rolByte old (getFlag s.p .c)) (fun old t => { t with p := shiftFlags t.p (rolByte old (getFlag s.p .c)) (old.getLsbD 7) }) s fun _ _ => ⟨rfl, rfl, rfl, rfl, rfl⟩
      cases hd : i.dst <;> rw [hd] at this <;> exact this
    · rw [hrmw (by rw [hm]; decide)]; have := rmw_wrote i.dst (fun old => rorByte old (getFlag s.p .c)) (fun old t => { t with p := shiftFlags t.p (rorByte old (getFlag s.p .c)) (old.getLsbD 0) }) s fun _ _ => ⟨rfl, rfl, rfl, rfl, rfl⟩
      cases hd : i.dst <;> rw [hd] at this <;> exact this
    · exact push_then_wrote s.a s (pure 0) [] fun t _ => sameBus_preorder.refl _
    · exact push_then_wrote (forcedBreak s.p) s (pure 0) [] fun t _ => sameBus_preorder.refl _
    · simp only [opJsr, pushWord, bind_assoc]
      refine push_then_wrote _ s _ [stackAddr (s.sp - 1)] fun t _ => ?_
      exact push_then_wrote _ { t with sp := s.sp - 1 } _ [] fun u _ => sameBus_pc _ _
    · simp only [opBrk, takeSoftwareInterrupt, pushWord, bind_assoc]
      refine push_then_wrote _ s _ [stackAddr (s.sp - 1), stackAddr (s.sp - 2)] fun t _ => ?_
      refine push_then_wrote _ { t with sp := s.sp - 1 } _ [stackAddr (s.sp - 2)] fun u _ => ?_
      have hsp : s.sp - 1 - 1 = s.sp - 2 := by bv_omega
      rw [hsp, bind_run, getState_run]
      refine push_then_wrote (forcedBreak u.p) { u with sp := s.sp - 2 } (do
         update fun s => s.putFlag .i true
         let target ← readBy fun s => s.memRead16 interruptVector
         update fun s => { s with pc := target }
         pure 0) [] fun v _ => ?_
      refine keeps_wrote ?_ _
      exact Op.Keeps.bind sameBus_preorder (Op.Keeps.update fun _ => ⟨rfl, rfl, rfl, rfl, rfl⟩) fun _ =>
        Op.Keeps.bind sameBus_preorder (Op.Keeps.readBy sameBus_preorder _) fun _ => Op.Keeps.bind sameBus_preorder (Op.Keeps.update fun _ => sameBus_pc _ _) fun _ => Op.Keeps.pure sameBus_preorder _
  · have : i.writes s = [] := by
      unfold Instr.writes
      split <;> rename_i hm <;> first | rfl | exact absurd (by rw [hm]; decide) hn
    rw [this]
    refine keeps_wrote (body_keeps sameBus_preorder i pc0 (fun h => absurd h hn) ?_ ?_ ?_ ?_ ?_ ?_) s <;> intros <;> exact ⟨rfl, rfl, rfl, rfl, rfl⟩

/-- `exec` of every instruction writes exactly where `Instr.writes` says. -/
theorem exec_wrote {i : Instr} {s t : State} (h : exec i s = .next t) :
    ∃ w, w <+: i.writes s ∧ Wrote w s t ∧ (t.fault = none → w = i.writes s) := by
  rw [exec_eq_runInstr] at h
  have hk := body_wrote i s.pc { s with pc := s.pc + BitVec.ofNat 16 i.length }
  rw [writes_pc] at hk
  rcases runInstr_cases i.length i.row.base (i.body s.pc) s with ⟨extra, u, hu, he⟩ | ⟨f, u, hu, he⟩ <;>
    rw [h] at he <;> cases he <;> rw [hu] at hk
  · exact ⟨_, List.prefix_rfl, (hk.before (sameBus_pc _ _)).after ⟨rfl, rfl, rfl, rfl, rfl⟩, fun _ => rfl⟩
  · obtain ⟨w, hp, hw⟩ := hk
    exact ⟨w, hp, (hw.before (sameBus_pc _ _)).after ⟨rfl, rfl, rfl, rfl, rfl⟩, fun h => by simp at h⟩

/-! ## What follows for the bus -/

/-- What may have changed where the bus was written at these addresses. -/
structure Touches (ws : List Word) (s t : State) : Prop where
  cfg : t.cfg = s.cfg
  mem : ∀ addr : Word, addr ∉ ws ∨ inWindow s.cfg addr = true → Memory.get t.mem addr.toNat = Memory.get s.mem addr.toNat
  wreg : ∀ o : Fin 45, windowAddr s.cfg o.val ∉ ws → t.wreg[o] = s.wreg[o]
  rreg : windowAddr s.cfg s.cfg.cxclrOffset ∉ ws → t.rreg = s.rreg

/-- One bus write. -/
theorem touches_write {s t : State} {a b} (h : s.memWrite a b = .ok t) : Touches [a] s t := by
  refine ⟨(memWrite_sameProcessor h).cfg, ?_, ?_, ?_⟩ <;>
  rcases memWrite_cases s a b with ⟨hw, he⟩ | ⟨hw, hlt, he⟩ | ⟨-, -, he⟩ <;> rw [h] at he <;> cases he
  · intro addr _; rw [periphWrite_mem]
  · intro addr hadr
    refine Memory.get_put_other _ _ fun hh => ?_
    have : addr = a := BitVec.eq_of_toNat_eq hh
    subst this
    rcases hadr with hadr | hadr
    · exact hadr (List.mem_singleton.mpr rfl)
    · rw [hw] at hadr; cases hadr
  · intro o ho
    rw [periphWrite_wreg, if_neg]
    intro he
    apply ho; rw [← he, ← windowAddr_of_offset hw]; exact List.mem_singleton.mpr rfl
  · intro o ho; rfl
  · intro ho
    apply periphWrite_rreg
    intro he
    apply ho; rw [← he, ← windowAddr_of_offset hw]; exact List.mem_singleton.mpr rfl
  · intro ho; rfl

/-- Bus writes change only what their addresses name. -/
theorem Wrote.touches {ws : List Word} : ∀ {s t}, Wrote ws s t → Touches ws s t := by
  induction ws with
  | nil => intro s t h; exact ⟨h.cfg, fun _ _ => by rw [h.mem], fun _ _ => by rw [h.wreg], fun _ => h.rreg⟩
  | cons a w ih =>
    rintro s t ⟨u, b, v, h1, h2, h3⟩
    have i1 := touches_write h2
    have i2 := ih h3
    have c1 := h1.cfg
    have c2 := i1.cfg
    refine ⟨i2.cfg.trans (c2.trans c1), fun addr h => ?_, fun o ho => ?_, fun ho => ?_⟩
    · rw [i2.mem, i1.mem, h1.mem]
      · rw [c1]; rcases h with h | h
        · exact .inl fun hh => h (List.mem_cons.mpr (.inl (List.mem_singleton.mp hh)))
        · exact .inr h
      · rw [c2, c1]; rcases h with h | h
        · exact .inl fun hh => h (List.mem_cons.mpr (.inr hh))
        · exact .inr h
    · rw [i2.wreg, i1.wreg, h1.wreg]
      · rw [c1]; exact fun hh => ho (List.mem_cons.mpr (.inl (List.mem_singleton.mp hh)))
      · rw [c2, c1]; exact fun hh => ho (List.mem_cons.mpr (.inr hh))
    · rw [i2.rreg, i1.rreg, h1.rreg]
      · rw [c1]; exact fun hh => ho (List.mem_cons.mpr (.inl (List.mem_singleton.mp hh)))
      · rw [c2, c1]; exact fun hh => ho (List.mem_cons.mpr (.inr hh))

/-- More addresses may be named. -/
theorem Touches.mono {v w s t} (h : Touches v s t) (hs : ∀ x, x ∈ v → x ∈ w) : Touches w s t :=
  ⟨h.cfg, fun a ha => h.mem a (ha.imp (fun k hh => k (hs _ hh)) id), fun o ho => h.wreg o fun hh => ho (hs _ hh), fun ho => h.rreg fun hh => ho (hs _ hh)⟩

/-- The processor is suspended after bus writes exactly when it was before or the wait strobe was written. -/
theorem Wrote.suspended_iff {ws : List Word} : ∀ {s t}, s.cfg.wf = true → Wrote ws s t → (t.suspended = true ↔ s.suspended = true ∨ windowAddr s.cfg s.cfg.wsyncOffset ∈ ws) := by
  induction ws with
  | nil => intro s t _ h; rw [h.suspended]; simp
  | cons a w ih =>
    rintro s t hwf ⟨u, b, v, h1, h2, h3⟩
    have c1 := h1.cfg
    have c2 := (memWrite_sameProcessor h2).cfg
    have := ih (by rw [c2, c1]; exact hwf) h3
    rw [this, c2, c1]
    have hv : v.suspended = true ↔ s.suspended = true ∨ windowAddr s.cfg s.cfg.wsyncOffset = a := by
      have hwf' := hwf
      simp only [Config.wf, Config.windowHoldsRegisters, Config.windowInSpace, Config.wsyncOk, Bool.and_eq_true, decide_eq_true_eq] at hwf'
      obtain ⟨⟨⟨⟨⟨⟨⟨-, k1⟩, k2⟩, k3⟩, -⟩, -⟩, -⟩, -⟩ := hwf'
      have hn : (windowAddr s.cfg s.cfg.wsyncOffset).toNat = s.cfg.pwinBase.toNat + s.cfg.wsyncOffset := by
        simp only [windowAddr, BitVec.toNat_add, BitVec.toNat_ofNat]; omega
      have hin : inWindow s.cfg (windowAddr s.cfg s.cfg.wsyncOffset) = true := by
        simp only [inWindow, hn, Bool.and_eq_true, decide_eq_true_eq]; omega
      rcases memWrite_cases u a b with ⟨hw, he⟩ | ⟨hw, hlt, he⟩ | ⟨-, -, he⟩ <;> rw [h2] at he <;> cases he
      · rw [periphWrite_suspended _ _ _ (by rw [c1]; exact k3), h1.suspended, c1]
        rw [c1] at hw
        simp only [Bool.or_eq_true, beq_iff_eq]
        apply or_congr_right
        constructor
        · intro he; rw [← he, ← windowAddr_of_offset hw]
        · intro he; rw [← he, windowOffset, hn]; omega
      · have hs := h1.suspended
        simp only [hs]
        constructor
        · exact .inl
        · rintro (h | h)
          · exact h
          · rw [c1, ← h, hin] at hw; cases hw
    rw [hv, List.mem_cons, or_assoc]

end Sys2Proof.Machine
end

