-- ==== Sys2Proof/Tests/Slice0.lean ====
section
/-! SUPPORT. Tests: the parameters each check refuses; words written out from the spec's encodings; single steps whose expected
results are rows of spec/95_test_vectors.md; and, for every statement with hypotheses, a witness that meets them. -/

namespace Sys2Proof.Tests

open Machine

/-! ## Well-formedness: each check refuses an ill-formed term -/

theorem test_default_wf : Config.default.wf = true := by decide

theorem test_memSize_refused : ({ Config.default with memSize := 65537 } : Config).memSizeOk = false := by decide

theorem test_windowHolds_refused : ({ Config.default with pwinLen := 0x3D } : Config).windowHoldsRegisters = false := by decide

theorem test_windowInSpace_refused : ({ Config.default with pwinBase := 0xFFC1 } : Config).windowInSpace = false := by decide

theorem test_wsync_refused : ({ Config.default with wsyncOffset := 0x2D } : Config).wsyncOk = false := by decide

theorem test_cxclr_refused : ({ Config.default with cxclrOffset := 0x2D } : Config).cxclrOk = false := by decide

theorem test_lineLen_refused : ({ Config.default with lineLen := 227 } : Config).lineOk = false := by decide

theorem test_hblank_refused : ({ Config.default with hblankStart := 228 } : Config).hblankOk = false := by decide

theorem test_colorTable_odd_refused :
    ({ Config.default with colorTable := [(0x0F, 0xFFFFFF)] } : Config).colorTableOk = false := by decide

theorem test_colorTable_twice_refused :
    ({ Config.default with colorTable := [(0x0E, 0xFFFFFF), (0x0E, 0x000000)] } : Config).colorTableOk = false := by decide

/-- R86: there is no ill-formed instruction; a word of all ones in the operand is one. -/
theorem test_instr_wf : (Instr.jmpAbs 0xFFFF).wellFormed = true := rfl

/-! ## Decoding: one word a family, written out from the table of R84 -/

theorem test_decode_load : decode [0xB1, 0x80] = .ok (.ldaIzy 0x80, []) := rfl
theorem test_decode_store : decode [0x9D, 0x34, 0x12] = .ok (.staAbx 0x1234, []) := rfl
theorem test_decode_transfer : decode [0xBA] = .ok (.tsx, []) := rfl
theorem test_decode_stack : decode [0x28] = .ok (.plp, []) := rfl
theorem test_decode_logic : decode [0x59, 0xFF, 0x00] = .ok (.eorAby 0x00FF, []) := rfl
theorem test_decode_arith : decode [0xE1, 0x07] = .ok (.sbcIzx 0x07, []) := rfl
theorem test_decode_compare : decode [0xC4, 0x80, 0xEA] = .ok (.cpyZp 0x80, [0xEA]) := rfl
theorem test_decode_incdec : decode [0xDE, 0x00, 0x20] = .ok (.decAbx 0x2000, []) := rfl
theorem test_decode_shift : decode [0x76, 0x70] = .ok (.rorZpx 0x70, []) := rfl
theorem test_decode_control : decode [0x6C, 0xFF, 0x10] = .ok (.jmpInd 0x10FF, []) := rfl
theorem test_decode_branch : decode [0x30, 0x7F] = .ok (.bmi 0x7F, []) := rfl
theorem test_decode_flag : decode [0xB8] = .ok (.clv, []) := rfl
theorem test_decode_system : decode [0x00] = .ok (.brk, []) := rfl
theorem test_decode_illegal : decode [0x02, 0x00] = .error (.illegalOpcode 0x02) := rfl
theorem test_decode_truncated : decode [0x4C, 0x00] = .error (.truncated 0x4C) := rfl
theorem test_decodeTableWord : decodeTableWord 24 0x1234AD = some (.ldaAbs 0x1234) := by decide
theorem test_decodeTableWord_operand_zero : decodeTableWord 8 0xAD = some (.ldaAbs 0x0000) := by decide

/-! ## Reset and the placing of an instruction -/

/-- R14, R11: P is 0x05 and SP is 0xFF after reset. -/
theorem test_reset_values : State.reset.p = 0x05 ∧ State.reset.sp = 0xFF := by decide

/-- Reset leaves the reset state as it is ("With the backing store entirely zero the reset PC is 0x0000", R301). -/
theorem test_hostReset_of_reset : State.reset.hostReset = State.reset := by decide

/-- R301's example: vector bytes 0x00, 0xF0 give PC = 0xF000. -/
theorem test_hostReset_vector : ({ State.reset with mem := [(0xFFFD, 0xF0)] } : State).hostReset.pc = 0xF000 := by decide

/-- A placed word is what the next step fetches, also right after reset. -/
theorem test_withFetchWord : (State.reset.withFetchWord 16 0x05A9).fetch = .ok (.ldaImm 0x05) := rfl

/-! ## Single steps (spec/95_test_vectors.md, parts 2.1 to 2.6)

A step from a FETCHING state with the bytes at PC; "cycles" is `remaining_cycles` + 1 after it. -/

/-- The reset registers with PC at 0xF000 and the memory empty. -/
def base : State := { State.reset with pc := 0xF000 }

/-- Bytes of the backing store. -/
def bytes (l : List (Nat × Byte)) : Memory := l.foldl (fun m c => Memory.put m c.1 c.2) []

/-- The state with these bytes at PC. -/
def placed (code : List Byte) (s : State) : State := { s with mem := Memory.putBytes s.mem s.pc code }

/-- The state one step later. -/
def after (code : List Byte) (s : State) : State :=
  match step (placed code s) with
  | .next t => t
  | _ => s

/-- A, X, Y, SP, P. -/
def regs (t : State) : Byte × Byte × Byte × Byte × Byte := (t.a, t.x, t.y, t.sp, t.p)

/-- PC and the cycles the instruction takes. -/
def flow (t : State) : Word × Nat := (t.pc, t.remaining + 1)

/-- LDA IMM: S2, the document's example (R160). -/
theorem test_lda_imm :
    let t := after [0xA9, 0x05] base
    regs t = (0x05, 0x00, 0x00, 0xFF, 0x05) ∧ flow t = (0xF002, 2) := by decide

/-- LDA IMM: Z=1 (R160). -/
theorem test_lda_imm_2 :
    let t := after [0xA9, 0x00] base
    regs t = (0x00, 0x00, 0x00, 0xFF, 0x07) ∧ flow t = (0xF002, 2) := by decide

/-- LDA ZP: ZP (R160). -/
theorem test_lda_zp :
    let t := after [0xA5, 0x80] { base with mem := bytes [(0x0080, 0x7F)] }
    regs t = (0x7F, 0x00, 0x00, 0xFF, 0x05) ∧ flow t = (0xF002, 3) := by decide

/-- LDA ZPX: V-ZPW: ZPX wraps inside page 0 (S14) (R160). -/
theorem test_lda_zpx :
    let t := after [0xB5, 0xF0] { base with x := 0x90, mem := bytes [(0x0080, 0x44), (0x0180, 0x99)] }
    regs t = (0x44, 0x90, 0x00, 0xFF, 0x05) ∧ flow t = (0xF002, 4) := by decide

/-- LDA ABS: ABS, operand little-endian (R160). -/
theorem test_lda_abs :
    let t := after [0xAD, 0x34, 0x12] { base with mem := bytes [(0x1234, 0xFE)] }
    regs t = (0xFE, 0x00, 0x00, 0xFF, 0x85) ∧ flow t = (0xF003, 4) := by decide

/-- LDA ABX: V-PG1: ABX, no crossing, 4 cycles (R160). -/
theorem test_lda_abx :
    let t := after [0xBD, 0xF0, 0x12] { base with x := 0x0F, mem := bytes [(0x12FF, 0x11)] }
    regs t = (0x11, 0x0F, 0x00, 0xFF, 0x05) ∧ flow t = (0xF003, 4) := by decide

/-- LDA ABX: V-PG2: ABX, crossing, 5 cycles (S8) (R160). -/
theorem test_lda_abx_2 :
    let t := after [0xBD, 0xF0, 0x12] { base with x := 0x10, mem := bytes [(0x1300, 0x22)] }
    regs t = (0x22, 0x10, 0x00, 0xFF, 0x05) ∧ flow t = (0xF003, 5) := by decide

/-- STA ABX: V-PG3: STA ABX, no crossing, 5 cycles (R163). -/
theorem test_sta_abx :
    let t := after [0x9D, 0xF0, 0x12] { base with a := 0x77, x := 0x0F }
    regs t = (0x77, 0x0F, 0x00, 0xFF, 0x05) ∧ flow t = (0xF003, 5) ∧
      Memory.get t.mem 0x12FF = 0x77 := by decide

/-- STA ABX: V-PG4: STA ABX, crossing, still 5 cycles (S8) (R163). -/
theorem test_sta_abx_2 :
    let t := after [0x9D, 0xF0, 0x12] { base with a := 0x77, x := 0x10 }
    regs t = (0x77, 0x10, 0x00, 0xFF, 0x05) ∧ flow t = (0xF003, 5) ∧
      Memory.get t.mem 0x1300 = 0x77 := by decide

/-- LDA ABY: ABY, sum wraps past FFFF to 0001 (in-window, write side: placeholder 00), counts as crossing (R160). -/
theorem test_lda_aby :
    let t := after [0xB9, 0xFF, 0xFF] { base with y := 0x02, mem := bytes [(0x0001, 0x00), (0x0081, 0x00)] }
    regs t = (0x00, 0x00, 0x02, 0xFF, 0x07) ∧ flow t = (0xF003, 5) := by decide

/-- LDA IZX: IZX: pointer at (FE+82) mod 256 = 80 (R160). -/
theorem test_lda_izx :
    let t := after [0xA1, 0xFE] { base with x := 0x82, mem := bytes [(0x0080, 0x00), (0x0081, 0x20), (0x2000, 0x5A)] }
    regs t = (0x5A, 0x82, 0x00, 0xFF, 0x05) ∧ flow t = (0xF002, 6) := by decide

/-- LDA IZY: IZY, crossing: 20F8+10=2108, 6 cycles (R160). -/
theorem test_lda_izy :
    let t := after [0xB1, 0x80] { base with y := 0x10, mem := bytes [(0x0080, 0xF8), (0x0081, 0x20), (0x2108, 0x5B)] }
    regs t = (0x5B, 0x00, 0x10, 0xFF, 0x05) ∧ flow t = (0xF002, 6) := by decide

/-- LDA IZY: IZY, no crossing, 5 cycles (R160). -/
theorem test_lda_izy_2 :
    let t := after [0xB1, 0x80] { base with y := 0x07, mem := bytes [(0x0080, 0xF8), (0x0081, 0x20), (0x20FF, 0x5C)] }
    regs t = (0x5C, 0x00, 0x07, 0xFF, 0x05) ∧ flow t = (0xF002, 5) := by decide

/-- STA IZY: STA IZY, crossing, fixed 6 cycles (R163). -/
theorem test_sta_izy :
    let t := after [0x91, 0x80] { base with a := 0x66, y := 0x10, mem := bytes [(0x0080, 0xF8), (0x0081, 0x20)] }
    regs t = (0x66, 0x00, 0x10, 0xFF, 0x05) ∧ flow t = (0xF002, 6) ∧
      Memory.get t.mem 0x2108 = 0x66 := by decide

/-- LDX IMM: LDX IMM (R161). -/
theorem test_ldx_imm :
    let t := after [0xA2, 0xFF] base
    regs t = (0x00, 0xFF, 0x00, 0xFF, 0x85) ∧ flow t = (0xF002, 2) := by decide

/-- LDX ZPY: LDX ZPY wraps (R161). -/
theorem test_ldx_zpy :
    let t := after [0xB6, 0xF0] { base with y := 0x90, mem := bytes [(0x0080, 0x01)] }
    regs t = (0x00, 0x01, 0x90, 0xFF, 0x05) ∧ flow t = (0xF002, 4) := by decide

/-- LDX ABY: LDX ABY crossing, Z=1 (R161). -/
theorem test_ldx_aby :
    let t := after [0xBE, 0x80, 0x20] { base with y := 0x80, mem := bytes [(0x2100, 0x00)] }
    regs t = (0x00, 0x00, 0x80, 0xFF, 0x07) ∧ flow t = (0xF003, 5) := by decide

/-- LDY IMM: LDY IMM (R162). -/
theorem test_ldy_imm :
    let t := after [0xA0, 0x7F] base
    regs t = (0x00, 0x00, 0x7F, 0xFF, 0x05) ∧ flow t = (0xF002, 2) := by decide

/-- LDY ABX: LDY ABX, no crossing (R162). -/
theorem test_ldy_abx :
    let t := after [0xBC, 0x00, 0x20] { base with x := 0xFF, mem := bytes [(0x20FF, 0x80)] }
    regs t = (0x00, 0xFF, 0x80, 0xFF, 0x85) ∧ flow t = (0xF003, 4) := by decide

/-- STA ZP: STA ZP, flags unchanged (R163). -/
theorem test_sta_zp :
    let t := after [0x85, 0x80] { base with a := 0x42 }
    regs t = (0x42, 0x00, 0x00, 0xFF, 0x05) ∧ flow t = (0xF002, 3) ∧
      Memory.get t.mem 0x0080 = 0x42 := by decide

/-- STA ZP: STA to in-window offset 09: latch only, MEM[0009] unchanged (R163). -/
theorem test_sta_zp_2 :
    let t := after [0x85, 0x09] { base with a := 0x1E }
    regs t = (0x1E, 0x00, 0x00, 0xFF, 0x05) ∧ flow t = (0xF002, 3) ∧
      t.wreg[0x09] = 0x1E := by decide

/-- STX ZP: STX ZP (R164). -/
theorem test_stx_zp :
    let t := after [0x86, 0x80] { base with x := 0x10 }
    regs t = (0x00, 0x10, 0x00, 0xFF, 0x05) ∧ flow t = (0xF002, 3) ∧
      Memory.get t.mem 0x0080 = 0x10 := by decide

/-- STX ZPY: STX ZPY wraps to 0050 (R164). -/
theorem test_stx_zpy :
    let t := after [0x96, 0xF0] { base with x := 0x07, y := 0x60 }
    regs t = (0x00, 0x07, 0x60, 0xFF, 0x05) ∧ flow t = (0xF002, 4) ∧
      Memory.get t.mem 0x0050 = 0x07 := by decide

/-- STX ABS: STX ABS (R164). -/
theorem test_stx_abs :
    let t := after [0x8E, 0x00, 0x30] { base with x := 0xAA }
    regs t = (0x00, 0xAA, 0x00, 0xFF, 0x05) ∧ flow t = (0xF003, 4) ∧
      Memory.get t.mem 0x3000 = 0xAA := by decide

/-- STY ZP: STY ZP (R165). -/
theorem test_sty_zp :
    let t := after [0x84, 0x80] { base with y := 0x33 }
    regs t = (0x00, 0x00, 0x33, 0xFF, 0x05) ∧ flow t = (0xF002, 3) ∧
      Memory.get t.mem 0x0080 = 0x33 := by decide

/-- STY ZPX: STY ZPX (R165). -/
theorem test_sty_zpx :
    let t := after [0x94, 0x80] { base with x := 0x01, y := 0x33 }
    regs t = (0x00, 0x01, 0x33, 0xFF, 0x05) ∧ flow t = (0xF002, 4) ∧
      Memory.get t.mem 0x0081 = 0x33 := by decide

/-- TAX IMP: TAX (R166). -/
theorem test_tax_imp :
    let t := after [0xAA] { base with a := 0x80 }
    regs t = (0x80, 0x80, 0x00, 0xFF, 0x85) ∧ flow t = (0xF001, 2) := by decide

/-- TAY IMP: TAY, Z=1 (R167). -/
theorem test_tay_imp :
    let t := after [0xA8] { base with a := 0x00, y := 0x55 }
    regs t = (0x00, 0x00, 0x00, 0xFF, 0x07) ∧ flow t = (0xF001, 2) := by decide

/-- TXA IMP: TXA (R168). -/
theorem test_txa_imp :
    let t := after [0x8A] { base with a := 0xFF, x := 0x7F }
    regs t = (0x7F, 0x7F, 0x00, 0xFF, 0x05) ∧ flow t = (0xF001, 2) := by decide

/-- TYA IMP: TYA (R169). -/
theorem test_tya_imp :
    let t := after [0x98] { base with y := 0xFF }
    regs t = (0xFF, 0x00, 0xFF, 0xFF, 0x85) ∧ flow t = (0xF001, 2) := by decide

/-- TSX IMP: TSX sets Z (R170). -/
theorem test_tsx_imp :
    let t := after [0xBA] { base with x := 0x55, sp := 0x00 }
    regs t = (0x00, 0x00, 0x00, 0x00, 0x07) ∧ flow t = (0xF001, 2) := by decide

/-- TXS IMP: TXS: no flags (P stays 85 although SP becomes 00) (R171). -/
theorem test_txs_imp :
    let t := after [0x9A] { base with x := 0x00, p := 0x85 }
    regs t = (0x00, 0x00, 0x00, 0x00, 0x85) ∧ flow t = (0xF001, 2) := by decide

/-- PHA IMP: PHA (R180). -/
theorem test_pha_imp :
    let t := after [0x48] { base with a := 0x42 }
    regs t = (0x42, 0x00, 0x00, 0xFE, 0x05) ∧ flow t = (0xF001, 3) ∧
      Memory.get t.mem 0x01FF = 0x42 := by decide

/-- PHP IMP: PHP: pushed byte = P OR 30 = 35; P unchanged (R181). -/
theorem test_php_imp :
    let t := after [0x08] base
    regs t = (0x00, 0x00, 0x00, 0xFE, 0x05) ∧ flow t = (0xF001, 3) ∧
      Memory.get t.mem 0x01FF = 0x35 := by decide

/-- PHP IMP: PHP with P=CF: pushes FF (R181). -/
theorem test_php_imp_2 :
    let t := after [0x08] { base with p := 0xCF }
    regs t = (0x00, 0x00, 0x00, 0xFE, 0xCF) ∧ flow t = (0xF001, 3) ∧
      Memory.get t.mem 0x01FF = 0xFF := by decide

/-- PLA IMP: PLA, Z=1 (R182). -/
theorem test_pla_imp :
    let t := after [0x68] { base with a := 0x11, sp := 0xFE, mem := bytes [(0x01FF, 0x00)] }
    regs t = (0x00, 0x00, 0x00, 0xFF, 0x07) ∧ flow t = (0xF001, 4) := by decide

/-- PLA IMP: PLA at SP=FF: SP wraps to 00, reads 0100 (R182). -/
theorem test_pla_imp_2 :
    let t := after [0x68] { base with sp := 0xFF, mem := bytes [(0x0100, 0x80)] }
    regs t = (0x80, 0x00, 0x00, 0x00, 0x85) ∧ flow t = (0xF001, 4) := by decide

/-- PLP IMP: PLP loads all 8 bits (decision D18) (R183). -/
theorem test_plp_imp :
    let t := after [0x28] { base with sp := 0xFE, mem := bytes [(0x01FF, 0xFF)] }
    regs t = (0x00, 0x00, 0x00, 0xFF, 0xFF) ∧ flow t = (0xF001, 4) := by decide

/-- ORA IMM: ORA (R192). -/
theorem test_ora_imm :
    let t := after [0x09, 0x0F] { base with a := 0xF0 }
    regs t = (0xFF, 0x00, 0x00, 0xFF, 0x85) ∧ flow t = (0xF002, 2) := by decide

/-- AND IMM: AND, Z=1 (R193). -/
theorem test_and_imm :
    let t := after [0x29, 0x0F] { base with a := 0xF0 }
    regs t = (0x00, 0x00, 0x00, 0xFF, 0x07) ∧ flow t = (0xF002, 2) := by decide

/-- EOR IMM: EOR, N=1 (R194). -/
theorem test_eor_imm :
    let t := after [0x49, 0xFF] { base with a := 0x0F }
    regs t = (0xF0, 0x00, 0x00, 0xFF, 0x85) ∧ flow t = (0xF002, 2) := by decide

/-- BIT ZP: BIT: Z=1 (A AND m = 0), N and V from m bits 7, 6; A unchanged (R195). -/
theorem test_bit_zp :
    let t := after [0x24, 0x80] { base with a := 0x01, mem := bytes [(0x0080, 0xC0)] }
    regs t = (0x01, 0x00, 0x00, 0xFF, 0xC7) ∧ flow t = (0xF002, 3) := by decide

/-- BIT ABS: BIT ABS: N, V cleared from m; Z=0 (R195). -/
theorem test_bit_abs :
    let t := after [0x2C, 0x00, 0x30] { base with a := 0xFF, p := 0xC5, mem := bytes [(0x3000, 0x01)] }
    regs t = (0xFF, 0x00, 0x00, 0xFF, 0x05) ∧ flow t = (0xF003, 4) := by decide

/-- ADC IMM: ADC 7F+01: V=1, N=1, C=0 (R196). -/
theorem test_adc_imm :
    let t := after [0x69, 0x01] { base with a := 0x7F, p := 0x04 }
    regs t = (0x80, 0x00, 0x00, 0xFF, 0xC4) ∧ flow t = (0xF002, 2) := by decide

/-- ADC IMM: ADC FF+01: C=1, Z=1, V=0 (R196). -/
theorem test_adc_imm_2 :
    let t := after [0x69, 0x01] { base with a := 0xFF, p := 0x04 }
    regs t = (0x00, 0x00, 0x00, 0xFF, 0x07) ∧ flow t = (0xF002, 2) := by decide

/-- SBC IMM: SBC 00-01: FF, C=0 (borrow), N=1 (R197). -/
theorem test_sbc_imm :
    let t := after [0xE9, 0x01] { base with a := 0x00, p := 0x05 }
    regs t = (0xFF, 0x00, 0x00, 0xFF, 0x84) ∧ flow t = (0xF002, 2) := by decide

/-- SBC IMM: SBC 80-01: 7F, V=1, C=1 (R197). -/
theorem test_sbc_imm_2 :
    let t := after [0xE9, 0x01] { base with a := 0x80, p := 0x05 }
    regs t = (0x7F, 0x00, 0x00, 0xFF, 0x45) ∧ flow t = (0xF002, 2) := by decide

/-- CMP IMM: CMP equal: Z=1, C=1 (R198). -/
theorem test_cmp_imm :
    let t := after [0xC9, 0x10] { base with a := 0x10 }
    regs t = (0x10, 0x00, 0x00, 0xFF, 0x07) ∧ flow t = (0xF002, 2) := by decide

/-- CMP IMM: CMP less: C=0, N=1 (10-20=F0) (R198). -/
theorem test_cmp_imm_2 :
    let t := after [0xC9, 0x20] { base with a := 0x10 }
    regs t = (0x10, 0x00, 0x00, 0xFF, 0x84) ∧ flow t = (0xF002, 2) := by decide

/-- CPX IMM: CPX (R199). -/
theorem test_cpx_imm :
    let t := after [0xE0, 0x00] { base with x := 0xFF, p := 0x04 }
    regs t = (0x00, 0xFF, 0x00, 0xFF, 0x85) ∧ flow t = (0xF002, 2) := by decide

/-- CPY ZP: CPY ZP less (R200). -/
theorem test_cpy_zp :
    let t := after [0xC4, 0x80] { base with y := 0x01, p := 0x04, mem := bytes [(0x0080, 0x02)] }
    regs t = (0x00, 0x00, 0x01, 0xFF, 0x84) ∧ flow t = (0xF002, 3) := by decide

/-- ADC ZP: V-ADC-M2 ZP (R196). -/
theorem test_adc_zp :
    let t := after [0x65, 0x80] { base with a := 0x50, p := 0x04, mem := bytes [(0x0080, 0x50)] }
    regs t = (0xA0, 0x00, 0x00, 0xFF, 0xC4) ∧ flow t = (0xF002, 3) := by decide

/-- ADC ZPX: V-ADC-M3 ZPX (R196). -/
theorem test_adc_zpx :
    let t := after [0x75, 0x70] { base with a := 0x50, x := 0x10, p := 0x04, mem := bytes [(0x0080, 0x50)] }
    regs t = (0xA0, 0x10, 0x00, 0xFF, 0xC4) ∧ flow t = (0xF002, 4) := by decide

/-- ADC ABS: V-ADC-M4 ABS (R196). -/
theorem test_adc_abs :
    let t := after [0x6D, 0x00, 0x30] { base with a := 0x50, p := 0x04, mem := bytes [(0x3000, 0x50)] }
    regs t = (0xA0, 0x00, 0x00, 0xFF, 0xC4) ∧ flow t = (0xF003, 4) := by decide

/-- ADC ABX: V-ADC-M5 ABX crossing (R196). -/
theorem test_adc_abx :
    let t := after [0x7D, 0xFF, 0x2F] { base with a := 0x50, x := 0x01, p := 0x04, mem := bytes [(0x3000, 0x50)] }
    regs t = (0xA0, 0x01, 0x00, 0xFF, 0xC4) ∧ flow t = (0xF003, 5) := by decide

/-- ADC ABY: V-ADC-M6 ABY (R196). -/
theorem test_adc_aby :
    let t := after [0x79, 0x00, 0x30] { base with a := 0x50, y := 0x00, p := 0x04, mem := bytes [(0x3000, 0x50)] }
    regs t = (0xA0, 0x00, 0x00, 0xFF, 0xC4) ∧ flow t = (0xF003, 4) := by decide

/-- ADC IZX: V-ADC-M7 IZX (R196). -/
theorem test_adc_izx :
    let t := after [0x61, 0x80] { base with a := 0x50, x := 0x00, p := 0x04, mem := bytes [(0x0080, 0x00), (0x0081, 0x30), (0x3000, 0x50)] }
    regs t = (0xA0, 0x00, 0x00, 0xFF, 0xC4) ∧ flow t = (0xF002, 6) := by decide

/-- ADC IZY: V-ADC-M8 IZY (R196). -/
theorem test_adc_izy :
    let t := after [0x71, 0x80] { base with a := 0x50, y := 0x00, p := 0x04, mem := bytes [(0x0080, 0x00), (0x0081, 0x30), (0x3000, 0x50)] }
    regs t = (0xA0, 0x00, 0x00, 0xFF, 0xC4) ∧ flow t = (0xF002, 5) := by decide

/-- INX IMP: S3, the document's example (R212). -/
theorem test_inx_imp :
    let t := after [0xE8] { base with x := 0xFF }
    regs t = (0x00, 0x00, 0x00, 0xFF, 0x07) ∧ flow t = (0xF001, 2) := by decide

/-- INY IMP: INY to 80, N=1 (R213). -/
theorem test_iny_imp :
    let t := after [0xC8] { base with y := 0x7F }
    regs t = (0x00, 0x00, 0x80, 0xFF, 0x85) ∧ flow t = (0xF001, 2) := by decide

/-- DEX IMP: DEX wraps to FF (R214). -/
theorem test_dex_imp :
    let t := after [0xCA] { base with x := 0x00 }
    regs t = (0x00, 0xFF, 0x00, 0xFF, 0x85) ∧ flow t = (0xF001, 2) := by decide

/-- DEY IMP: DEY to 00, Z=1 (R215). -/
theorem test_dey_imp :
    let t := after [0x88] { base with y := 0x01 }
    regs t = (0x00, 0x00, 0x00, 0xFF, 0x07) ∧ flow t = (0xF001, 2) := by decide

/-- INC ZP: INC ZP wraps to 00; C untouched (R210). -/
theorem test_inc_zp :
    let t := after [0xE6, 0x80] { base with mem := bytes [(0x0080, 0xFF)] }
    regs t = (0x00, 0x00, 0x00, 0xFF, 0x07) ∧ flow t = (0xF002, 5) ∧
      Memory.get t.mem 0x0080 = 0x00 := by decide

/-- DEC ZP: DEC ZP wraps to FF (R211). -/
theorem test_dec_zp :
    let t := after [0xC6, 0x80] { base with mem := bytes [(0x0080, 0x00)] }
    regs t = (0x00, 0x00, 0x00, 0xFF, 0x85) ∧ flow t = (0xF002, 5) ∧
      Memory.get t.mem 0x0080 = 0xFF := by decide

/-- INC ABX: INC ABX with crossing: fixed 7 cycles (decision D27) (R210). -/
theorem test_inc_abx :
    let t := after [0xFE, 0xFF, 0x20] { base with x := 0x01, mem := bytes [(0x2100, 0x7F)] }
    regs t = (0x00, 0x01, 0x00, 0xFF, 0x85) ∧ flow t = (0xF003, 7) ∧
      Memory.get t.mem 0x2100 = 0x80 := by decide

/-- DEC ABX: DEC ABX no crossing: 7 cycles (R211). -/
theorem test_dec_abx :
    let t := after [0xDE, 0x00, 0x20] { base with x := 0x01, mem := bytes [(0x2001, 0x01)] }
    regs t = (0x00, 0x01, 0x00, 0xFF, 0x07) ∧ flow t = (0xF003, 7) ∧
      Memory.get t.mem 0x2001 = 0x00 := by decide

/-- ASL ACC: ASL A: C=1, Z=1 (R216). -/
theorem test_asl_acc :
    let t := after [0x0A] { base with a := 0x80, p := 0x04 }
    regs t = (0x00, 0x00, 0x00, 0xFF, 0x07) ∧ flow t = (0xF001, 2) := by decide

/-- ASL ZP: ASL ZP: carry-in ignored, C=0, N=1 (R216). -/
theorem test_asl_zp :
    let t := after [0x06, 0x80] { base with p := 0x05, mem := bytes [(0x0080, 0x41)] }
    regs t = (0x00, 0x00, 0x00, 0xFF, 0x84) ∧ flow t = (0xF002, 5) ∧
      Memory.get t.mem 0x0080 = 0x82 := by decide

/-- LSR ACC: LSR A: C=1, Z=1, N=0 (R217). -/
theorem test_lsr_acc :
    let t := after [0x4A] { base with a := 0x01, p := 0x84 }
    regs t = (0x00, 0x00, 0x00, 0xFF, 0x07) ∧ flow t = (0xF001, 2) := by decide

/-- LSR ABS: LSR ABS (R217). -/
theorem test_lsr_abs :
    let t := after [0x4E, 0x00, 0x30] { base with p := 0x04, mem := bytes [(0x3000, 0xFE)] }
    regs t = (0x00, 0x00, 0x00, 0xFF, 0x04) ∧ flow t = (0xF003, 6) ∧
      Memory.get t.mem 0x3000 = 0x7F := by decide

/-- ROL ACC: ROL A: carry-in to bit 0, C=1 (R218). -/
theorem test_rol_acc :
    let t := after [0x2A] { base with a := 0x80, p := 0x05 }
    regs t = (0x01, 0x00, 0x00, 0xFF, 0x05) ∧ flow t = (0xF001, 2) := by decide

/-- ROL ZPX: ROL ZPX of 00 with C=1: 01, C=0 (R218). -/
theorem test_rol_zpx :
    let t := after [0x36, 0x70] { base with x := 0x10, p := 0x05, mem := bytes [(0x0080, 0x00)] }
    regs t = (0x00, 0x10, 0x00, 0xFF, 0x04) ∧ flow t = (0xF002, 6) ∧
      Memory.get t.mem 0x0080 = 0x01 := by decide

/-- ROR ACC: ROR A: C=1, Z=1 (R219). -/
theorem test_ror_acc :
    let t := after [0x6A] { base with a := 0x01, p := 0x04 }
    regs t = (0x00, 0x00, 0x00, 0xFF, 0x07) ∧ flow t = (0xF001, 2) := by decide

/-- ROR ABX: ROR ABX: 80, C=1 (R219). -/
theorem test_ror_abx :
    let t := after [0x7E, 0x00, 0x30] { base with x := 0x00, p := 0x05, mem := bytes [(0x3000, 0x01)] }
    regs t = (0x00, 0x00, 0x00, 0xFF, 0x85) ∧ flow t = (0xF003, 7) ∧
      Memory.get t.mem 0x3000 = 0x80 := by decide

/-- JMP ABS: JMP ABS (R230). -/
theorem test_jmp_abs :
    let t := after [0x4C, 0x34, 0x12] base
    regs t = (0x00, 0x00, 0x00, 0xFF, 0x05) ∧ flow t = (0x1234, 3) := by decide

/-- JMP IND: JMP IND with pointer at 12FF: high byte from 1300 (decision D3), not 1200 (R230). -/
theorem test_jmp_ind :
    let t := after [0x6C, 0xFF, 0x12] { base with mem := bytes [(0x1200, 0x99), (0x12FF, 0x78), (0x1300, 0x56)] }
    regs t = (0x00, 0x00, 0x00, 0xFF, 0x05) ∧ flow t = (0x5678, 5) := by decide

/-- JMP IND: JMP IND pointer FFFF: high byte from address 0000, which is in-window write side: placeholder 00 (R230). -/
theorem test_jmp_ind_2 :
    let t := after [0x6C, 0xFF, 0xFF] { base with mem := bytes [(0x0000, 0x56), (0xFFFF, 0x78)] }
    regs t = (0x00, 0x00, 0x00, 0xFF, 0x05) ∧ flow t = (0x0078, 5) := by decide

/-- JSR ABS: JSR: pushes F002 high then low (R231). -/
theorem test_jsr_abs :
    let t := after [0x20, 0x00, 0xF8] base
    regs t = (0x00, 0x00, 0x00, 0xFD, 0x05) ∧ flow t = (0xF800, 6) ∧
      Memory.get t.mem 0x01FE = 0x02 ∧ Memory.get t.mem 0x01FF = 0xF0 := by decide

/-- RTS IMP: V-RTS: PC = F002 + 1 (R232). -/
theorem test_rts_imp :
    let t := after [0x60] { base with pc := 0xF800, sp := 0xFD, mem := bytes [(0x01FE, 0x02), (0x01FF, 0xF0)] }
    regs t = (0x00, 0x00, 0x00, 0xFF, 0x05) ∧ flow t = (0xF003, 6) := by decide

/-- BPL REL: BPL taken, same page: 3 (R234). -/
theorem test_bpl_rel :
    let t := after [0x10, 0x05] { base with p := 0x05 }
    regs t = (0x00, 0x00, 0x00, 0xFF, 0x05) ∧ flow t = (0xF007, 3) := by decide

/-- BMI REL: BMI taken forward 127: F081, same page (R235). -/
theorem test_bmi_rel :
    let t := after [0x30, 0x7F] { base with p := 0x85 }
    regs t = (0x00, 0x00, 0x00, 0xFF, 0x85) ∧ flow t = (0xF081, 3) := by decide

/-- BVC REL: BVC to itself (displacement -2) (R236). -/
theorem test_bvc_rel :
    let t := after [0x50, 0xFE] base
    regs t = (0x00, 0x00, 0x00, 0xFF, 0x05) ∧ flow t = (0xF000, 3) := by decide

/-- BVS REL: BVS not taken (V=0) (R237). -/
theorem test_bvs_rel :
    let t := after [0x70, 0x10] base
    regs t = (0x00, 0x00, 0x00, 0xFF, 0x05) ∧ flow t = (0xF002, 2) := by decide

/-- BCC REL: BCC not taken at reset (C=1) (R238). -/
theorem test_bcc_rel :
    let t := after [0x90, 0x10] base
    regs t = (0x00, 0x00, 0x00, 0xFF, 0x05) ∧ flow t = (0xF002, 2) := by decide

/-- BCS REL: BCS taken, target F102 on another page: 4 (R239). -/
theorem test_bcs_rel :
    let t := after [0xB0, 0x10] { base with pc := 0xF0F0 }
    regs t = (0x00, 0x00, 0x00, 0xFF, 0x05) ∧ flow t = (0xF102, 4) := by decide

/-- BNE REL: BNE taken backward 128: EF82, other page: 4 (R240). -/
theorem test_bne_rel :
    let t := after [0xD0, 0x80] { base with p := 0x05 }
    regs t = (0x00, 0x00, 0x00, 0xFF, 0x05) ∧ flow t = (0xEF82, 4) := by decide

/-- BEQ REL: BEQ taken (R241). -/
theorem test_beq_rel :
    let t := after [0xF0, 0x10] { base with p := 0x07 }
    regs t = (0x00, 0x00, 0x00, 0xFF, 0x07) ∧ flow t = (0xF012, 3) := by decide

/-- BNE REL: BNE at F0FE, displacement 0: target F100; page differs from page of pc0 (decision D16): 4 cycles (R240). -/
theorem test_bne_rel_2 :
    let t := after [0xD0, 0x00] { base with pc := 0xF0FE }
    regs t = (0x00, 0x00, 0x00, 0xFF, 0x05) ∧ flow t = (0xF100, 4) := by decide

/-- CLC IMP: CLC (R250). -/
theorem test_clc_imp :
    let t := after [0x18] base
    regs t = (0x00, 0x00, 0x00, 0xFF, 0x04) ∧ flow t = (0xF001, 2) := by decide

/-- SEC IMP: SEC (R251). -/
theorem test_sec_imp :
    let t := after [0x38] { base with p := 0x04 }
    regs t = (0x00, 0x00, 0x00, 0xFF, 0x05) ∧ flow t = (0xF001, 2) := by decide

/-- CLI IMP: CLI (no effect beyond the bit) (R252). -/
theorem test_cli_imp :
    let t := after [0x58] base
    regs t = (0x00, 0x00, 0x00, 0xFF, 0x01) ∧ flow t = (0xF001, 2) := by decide

/-- SEI IMP: SEI (R253). -/
theorem test_sei_imp :
    let t := after [0x78] { base with p := 0x01 }
    regs t = (0x00, 0x00, 0x00, 0xFF, 0x05) ∧ flow t = (0xF001, 2) := by decide

/-- CLD IMP: CLD (R254). -/
theorem test_cld_imp :
    let t := after [0xD8] { base with p := 0x0D }
    regs t = (0x00, 0x00, 0x00, 0xFF, 0x05) ∧ flow t = (0xF001, 2) := by decide

/-- SED IMP: SED (R255). -/
theorem test_sed_imp :
    let t := after [0xF8] base
    regs t = (0x00, 0x00, 0x00, 0xFF, 0x0D) ∧ flow t = (0xF001, 2) := by decide

/-- CLV IMP: CLV (R256). -/
theorem test_clv_imp :
    let t := after [0xB8] { base with p := 0x45 }
    regs t = (0x00, 0x00, 0x00, 0xFF, 0x05) ∧ flow t = (0xF001, 2) := by decide

/-- NOP IMP: NOP (R257). -/
theorem test_nop_imp :
    let t := after [0xEA] base
    regs t = (0x00, 0x00, 0x00, 0xFF, 0x05) ∧ flow t = (0xF001, 2) := by decide

/-- BRK IMP: V-BRK: pushes F002, then P OR 30 = 35; P.I set (already 1); byte at F001 not read (R258). -/
theorem test_brk_imp :
    let t := after [0x00, 0xEA] { base with mem := bytes [(0xFFFE, 0x00), (0xFFFF, 0xF8)] }
    regs t = (0x00, 0x00, 0x00, 0xFC, 0x05) ∧ flow t = (0xF800, 7) ∧
      Memory.get t.mem 0x01FD = 0x35 ∧ Memory.get t.mem 0x01FE = 0x02 ∧
      Memory.get t.mem 0x01FF = 0xF0 := by decide

/-- RTI IMP: V-RTI: P=35, PC=F002 (no +1) (R259). -/
theorem test_rti_imp :
    let t := after [0x40] { base with pc := 0xF800, sp := 0xFC, mem := bytes [(0x01FD, 0x35), (0x01FE, 0x02), (0x01FF, 0xF0)] }
    regs t = (0x00, 0x00, 0x00, 0xFF, 0x35) ∧ flow t = (0xF002, 6) := by decide

/-- S7: LDA of a read-side register. -/
theorem test_lda_read_side :
    regs (after [0xA5, 0x38] { base with rreg := base.rreg.set 8 0x80 }) = (0x80, 0x00, 0x00, 0xFF, 0x85) := by decide

/-- R47: the collision-latch clear zeroes RREG[0x30..0x37] and keeps RREG[0x38]. -/
theorem test_sta_cxclr :
    let t := after [0x85, 0x2C] { base with rreg := Vector.replicate 14 0x80 }
    t.rreg[0] = 0x00 ∧ t.rreg[7] = 0x00 ∧ t.rreg[8] = 0x80 := by decide

/-- R271: an illegal opcode is latched with its byte and address, and PC stays. -/
theorem test_illegal_opcode :
    (after [0x02] base).fault = some (.decodeError 0x02 0xF000) ∧ (after [0x02] base).pc = 0xF000 := by decide

/-- The machine with a store of 0x8000 bytes and PC inside it. -/
def small : State := { State.reset with cfg := { Config.default with memSize := 0x8000 }, pc := 0x1000 }

/-- R272: a load out of bounds is latched; the load does not happen. -/
theorem test_load_out_of_bounds :
    let t := after [0xAD, 0x00, 0x80] { small with a := 0x55 }
    t.fault = some (.boundsError 0x8000) ∧ t.a = 0x55 := by decide

/-- The same with a store of `n` bytes. -/
def sized (n : Nat) : State := { small with cfg := { Config.default with memSize := n } }

/-- R272: a call whose second push lies nowhere (SP = 0x00 wraps to 0xFF) keeps the first byte pushed. -/
theorem test_jsr_second_push_out_of_bounds :
    let t := after [0x20, 0x00, 0x20] { sized 0x180 with sp := 0x00, pc := 0x0080 }
    t.fault = some (.boundsError 0x01FF) ∧ t.sp = 0xFF ∧ t.pc = 0x0083 ∧ Memory.get t.mem 0x0100 = 0x00 ∧
      t.remaining = 0 := by decide

/-! ## Witnesses: states and operands that meet the hypotheses of the statements -/

/-- A FETCHING state with LDA #0x05 at PC. -/
def atLda : State := placed [0xA9, 0x05] base

/-- A suspended state one step before the horizontal blank. -/
def beforeBlank : State := { State.reset with suspended := true, div := 2, hpos := 227 }

/-- Every stack byte of `base` is stored, for the offsets the round trips use. -/
theorem base_stack_stored :
    base.stored (stackAddr base.sp) ∧ base.stored (stackAddr (base.sp - 1)) ∧ base.stored (stackAddr (base.sp - 2)) := by
  unfold State.stored; decide

theorem witness_DecodeOfEncodeIsIdentity : (Instr.jmpInd 0x10FF).wellFormed = true := rfl

theorem witness_DecodedBytesAreTheEncoding : decode [0x6C, 0xFF, 0x10, 0xEA] = .ok (.jmpInd 0x10FF, [0xEA]) := rfl

/-- Both directions of the equivalence occur. -/
theorem witness_ExactlyTheListedOpcodesAreIllegal :
    decode [0xFF] = .error (.illegalOpcode 0xFF) ∧ decode [0xFE, 0x00, 0x00] = .ok (.incAbx 0x0000, []) := ⟨rfl, rfl⟩

/-- The three vector reads: both bytes, the first missing, the second missing; and a fixed start. -/
theorem witness_ResetVectorGivesThePc :
    base.cfg.startPc = none ∧ base.memRead 0xFFFC = .ok 0x00 ∧ base.memRead 0xFFFD = .ok 0x00 ∧
      ({ base with cfg := { Config.default with memSize := 0xFFFC } } : State).memRead 0xFFFC = .error (.boundsError 0xFFFC) ∧
      ({ base with cfg := { Config.default with memSize := 0xFFFD } } : State).memRead 0xFFFC = .ok 0x00 ∧
      ({ base with cfg := { Config.default with memSize := 0xFFFD } } : State).memRead 0xFFFD = .error (.boundsError 0xFFFD) ∧
      ({ base with cfg := { Config.default with startPc := some 0xF000 } } : State).cfg.startPc = some 0xF000 :=
  ⟨rfl, rfl, rfl, rfl, rfl, rfl, rfl⟩

/-- An image that fits to the last byte, one of its bytes, and one that does not fit. -/
theorem witness_ImageLoadCopiesByteForByte :
    Memory.wf base.mem = true ∧ (∃ t, base.loadImage 0xFFFE [0x00, 0xF0] = some t) ∧
      base.loadImage 0xFFFF [0x00, 0xF0] = none ∧ ([0x00, 0xF0] : List Byte)[1]? = some 0xF0 :=
  ⟨rfl, ⟨_, rfl⟩, rfl, rfl⟩

/-- A code with an entry and a code without one. -/
theorem witness_ColorLookupMasksTheLowBit :
    let c : Config := { Config.default with colorTable := [(0x0E, 0xECECEC)] }
    c.colorTableOk = true ∧ ((0x0F : Byte) &&& 0xFE, (0xECECEC : Rgb)) ∈ c.colorTable ∧
      ∀ rgb : Rgb, ((0x10 : Byte) &&& 0xFE, rgb) ∉ c.colorTable :=
  ⟨by decide, by decide, by intro rgb h; simp at h⟩

theorem witness_StepRunsTheDecodedInstruction :
    atLda.fetching ∧ (Instr.ldaImm 0x05).wellFormed = true ∧ decode [0xA9, 0x05] = .ok (.ldaImm 0x05, []) ∧
      ∀ k b, ([0xA9, 0x05] : List Byte)[k]? = some b → atLda.takeInputs.memRead (atLda.pc + BitVec.ofNat 16 k) = .ok b := by
  refine ⟨by unfold State.fetching; decide, rfl, rfl, ?_⟩
  intro k b h
  match k with
  | 0 => cases h; rfl
  | 1 => cases h; rfl
  | k + 2 => cases h

/-- A RETIRING state with a CPU tick due, and the last `div` at which none is. -/
theorem witness_RetiringTickOnlyCountsDown :
    let s : State := { base with remaining := 1 }
    let t : State := { base with remaining := 1, div := 2 }
    (s.fault = none ∧ s.suspended = false ∧ s.remaining = 0 + 1 ∧ s.div = 0) ∧ t.fault = none ∧ t.div ≠ 0 := by decide

theorem witness_SuspendedTickChangesNothing : beforeBlank.fault = none ∧ beforeBlank.suspended = true := by decide

theorem witness_HaltedMachineNeverMoves :
    ({ base with fault := some (.boundsError 0x8000) } : State).fault = some (.boundsError 0x8000) := rfl

/-- One state for each clause: PC out of the store, an illegal opcode, a missing second byte, a missing third byte. -/
theorem witness_FetchFaultsAreLatchedPrecisely :
    (let s : State := { small with pc := 0x8000 };
      s.fetching ∧ s.takeInputs.memRead s.pc = .error (.boundsError 0x8000)) ∧
    (let s := placed [0xFF] base;
      s.fetching ∧ s.takeInputs.memRead s.pc = .ok 0xFF ∧ (opcodeTable 0xFF).isNone = true) ∧
    (let s := placed [0xA5] { small with pc := 0x7FFF };
      s.fetching ∧ s.takeInputs.memRead s.pc = .ok (Instr.ldaZp 0x00).row.opcode ∧ 2 ≤ (Instr.ldaZp 0x00).length ∧
        s.takeInputs.memRead (s.pc + 1) = .error (.boundsError 0x8000)) ∧
    (let s := placed [0xAD, 0x00] { small with pc := 0x7FFE };
      s.fetching ∧ s.takeInputs.memRead s.pc = .ok (Instr.ldaAbs 0x0000).row.opcode ∧ (Instr.ldaAbs 0x0000).length = 3 ∧
        s.takeInputs.memRead (s.pc + 1) = .ok 0x00 ∧ s.takeInputs.memRead (s.pc + 2) = .error (.boundsError 0x8000)) := by
  unfold State.fetching
  exact ⟨⟨by decide, rfl⟩, ⟨by decide, rfl, rfl⟩, ⟨by decide, rfl, by decide, rfl⟩, by decide, rfl, by decide, rfl, rfl⟩

theorem witness_EveryStepCountsOneMasterTick : base.fault = none ∧ ∃ t, step base = .next t := ⟨rfl, _, rfl⟩

theorem witness_EveryStepKeepsTheInvariant : base.Inv ∧ ∃ t, step base = .next t :=
  ⟨by constructor <;> decide, _, rfl⟩

/-- For no step, for two steps that do not reach the blank, and for the one that does. -/
theorem witness_SuspensionLastsToTheHorizontalBlank :
    beforeBlank.Inv ∧ beforeBlank.fault = none ∧ beforeBlank.suspended = true ∧
      (∀ j, j < 0 → (beforeBlank.hpos + 1 + j) % 228 ≠ 0) ∧ (beforeBlank.hpos + 1 + 0) % 228 = 0 ∧
      (∀ j, j < 2 → (225 + 1 + j) % 228 ≠ 0) ∧ beforeBlank.inputs = [] :=
  ⟨by constructor <;> decide, rfl, rfl, by omega, by decide, by omega, rfl⟩

theorem witness_ResumeFallsBetweenCpuCycles :
    beforeBlank.Inv ∧ beforeBlank.cfg.hblankStart % 3 = 0 ∧
      ∃ t, step beforeBlank = .next t ∧ beforeBlank.suspended = true ∧ t.suspended = false :=
  ⟨by constructor <;> decide, rfl, _, rfl, rfl, rfl⟩

/-- The first stored address past the window and the last of the space. -/
theorem witness_StoredByteReadsBack :
    Memory.wf base.mem = true ∧ base.stored 0x0040 ∧ (∃ t, base.memWrite 0x0040 0x42 = .ok t) ∧ base.stored 0xFFFF ∧
      ∃ t, base.memWrite 0xFFFF 0x00 = .ok t := by
  unfold State.stored
  exact ⟨rfl, by decide, ⟨_, rfl⟩, by decide, _, rfl⟩

/-- The last write-side offset, the wait strobe, the clear, and the first and last offsets that are not write-side. -/
theorem witness_WindowWriteGoesToThePeripheral :
    inWindow base.cfg 0x0000 = true ∧ inWindow base.cfg 0x003F = true ∧ windowOffset base.cfg 0x002C ≤ 0x2C ∧
      windowOffset base.cfg 0x0002 = base.cfg.wsyncOffset ∧ windowOffset base.cfg 0x002C = base.cfg.cxclrOffset ∧
      0x2C < windowOffset base.cfg 0x002D ∧ 0x2C < windowOffset base.cfg 0x003F := by decide

theorem witness_PlaceholderReadIsStable :
    inWindow base.cfg 0x002F = true ∧ windowOffset base.cfg 0x002F < 0x30 ∧ inWindow base.cfg 0x003E = true ∧
      0x3D < windowOffset base.cfg 0x003E ∧ ∃ t, step base = .next t :=
  ⟨by decide, by decide, by decide, by decide, _, rfl⟩

theorem witness_ReadSideRegisterReadsItsValue :
    inWindow beforeBlank.cfg 0x0030 = true ∧ windowOffset beforeBlank.cfg 0x0030 = 0x30 + (0 : Fin 14).val ∧
      inWindow beforeBlank.cfg 0x003D = true ∧ windowOffset beforeBlank.cfg 0x003D = 0x30 + (13 : Fin 14).val ∧
      beforeBlank.inputs = [] ∧ beforeBlank.fault = none ∧ ¬beforeBlank.fetching ∧ ∃ t, step beforeBlank = .next t := by
  unfold State.fetching
  exact ⟨by decide, by decide, by decide, by decide, rfl, rfl, by decide, _, rfl⟩

/-- An executing step (the first LDA of S7, at the first collision register) and one that writes beside the clear. -/
theorem witness_ReadSideRegisterReadsItsValue_executing :
    (let s := placed [0xA5, 0x30] base;
      s.fetching ∧ s.inputs = [] ∧ inWindow s.cfg 0x0030 = true ∧ windowOffset s.cfg 0x0030 = 0x30 + (0 : Fin 14).val ∧
        s.takeInputs.fetch = .ok (.ldaZp 0x30) ∧
        windowAddr s.cfg s.cfg.cxclrOffset ∉ (Instr.ldaZp 0x30).writes s.takeInputs ∧ ∃ t, step s = .next t) ∧
    (let s := placed [0x85, 0x2B] base;
      s.fetching ∧ s.takeInputs.fetch = .ok (.staZp 0x2B) ∧
        windowAddr s.cfg s.cfg.cxclrOffset ∉ (Instr.staZp 0x2B).writes s.takeInputs ∧ ∃ t, step s = .next t) := by
  unfold State.fetching
  exact ⟨⟨by decide, rfl, by decide, by decide, rfl, by decide, _, rfl⟩, by decide, rfl, by decide, _, rfl⟩

/-- Both sides of the bound, and the full store. -/
theorem witness_BoundsErrorExactlyOutsideTheStore :
    (inWindow small.cfg 0x8000 = false ∧ small.cfg.memSize ≤ (0x8000 : Word).toNat) ∧
      small.memRead 0x8000 = .error (.boundsError 0x8000) ∧ small.memWrite 0x8000 0x01 = .error (.boundsError 0x8000) ∧
      small.memRead 0x7FFF = .ok 0x00 ∧ base.cfg.memSize = 65536 :=
  ⟨by decide, rfl, rfl, rfl, rfl⟩

/-- A store in the store, with an address outside it, inside the window, a latch and the clear not among its addresses. -/
theorem witness_InstructionsStoreOnlyWhereTheyWrite :
    let i := Instr.staZp 0x80
    (∃ t, exec i base = .next t) ∧ (0x0081 : Word) ∉ i.writes base ∧ inWindow base.cfg 0x0081 = false ∧
      inWindow base.cfg 0x0000 = true ∧ windowAddr base.cfg 0x09 ∉ i.writes base ∧
      windowAddr base.cfg base.cfg.cxclrOffset ∉ i.writes base :=
  ⟨⟨_, rfl⟩, by decide, by decide, by decide, by decide, by decide⟩

theorem witness_RegistersAreWrittenOnlyByTheirMnemonics :
    (∃ t, exec .nop base = .next t) ∧ (∃ t, exec (.aslZp 0x80) base = .next t) ∧ Mnemonic.nop ∉ writersOfA ∧
      (Instr.aslZp 0x80).mnemonic ∈ [.asl, .lsr, .rol, .ror] ∧ (Instr.aslZp 0x80).mode ≠ .acc ∧
      Mnemonic.nop ∉ writersOfX ∧ Mnemonic.nop ∉ writersOfY ∧ Mnemonic.nop ∉ writersOfSp :=
  ⟨⟨_, rfl⟩, ⟨_, rfl⟩, by decide, by decide, by decide, by decide, by decide, by decide⟩

/-- For each flag, an instruction that is not among its writers. -/
theorem witness_FlagsAreWrittenOnlyByTheirWriters :
    (∃ t, exec (.staZp 0x80) base = .next t) ∧ ∀ f : Flag, (Instr.staZp 0x80).mnemonic ∉ f.writers :=
  ⟨⟨_, rfl⟩, by intro f; cases f <;> decide⟩

theorem witness_PcAdvancesByTheLength :
    (∃ t, exec (.ldaAbs 0x1234) { base with pc := 0xFFFE } = .next t) ∧ (Instr.ldaAbs 0x1234).mnemonic ∉ controlTransfers :=
  ⟨⟨_, rfl⟩, by decide⟩

/-- The write of the wait strobe and a write beside it. -/
theorem witness_OnlyTheWaitStrobeSuspends :
    base.cfg.wf = true ∧ (∃ t, exec (.staZp 0x02) base = .next t ∧ t.fault = none) ∧
      windowAddr base.cfg base.cfg.wsyncOffset ∈ (Instr.staZp 0x02).writes base ∧
      (∃ t, exec (.staZp 0x03) base = .next t ∧ t.fault = none) ∧
      windowAddr base.cfg base.cfg.wsyncOffset ∉ (Instr.staZp 0x03).writes base :=
  ⟨by decide, ⟨_, rfl, rfl⟩, by decide, ⟨_, rfl, rfl⟩, by decide⟩

/-- The longest and the shortest. -/
theorem witness_InstructionTakesTwoToSevenCycles :
    (∃ t, exec .brk base = .next t ∧ t.fault = none ∧ t.remaining = 6) ∧
      ∃ t, exec .nop base = .next t ∧ t.fault = none ∧ t.remaining = 1 :=
  ⟨⟨_, rfl, rfl, rfl⟩, _, rfl, rfl, rfl⟩

theorem witness_OnlyIllegalOpcodesFaultInAFullStore :
    base.cfg.memSize = 65536 ∧ (∃ t, exec .brk base = .next t) ∧ (placed [0x02] base).fault = none ∧
      ∃ t, step (placed [0x02] base) = .next t ∧ t.fault = some (.decodeError 0x02 0xF000) :=
  ⟨rfl, ⟨_, rfl⟩, rfl, _, rfl, rfl⟩

theorem witness_InstructionFaultsAreBoundsErrors :
    small.fault = none ∧ ∃ t, exec (.ldaAbs 0x8000) small = .next t ∧ t.fault = some (.boundsError 0x8000) :=
  ⟨rfl, _, rfl, rfl⟩

theorem witness_SetZNWritesTwoFlags : Flag.c ≠ .z ∧ Flag.c ≠ .n := by decide

theorem witness_AddWithCarryIsBinaryAddition : Flag.d ∉ [Flag.c, .v, .z, .n] := by decide

theorem witness_CompareIsUnsigned : Flag.v ∉ [Flag.c, .z, .n] := by decide

/-- The pointer at the end of page 0: its bytes are at 0x00FF and 0x0100. -/
theorem witness_PointersAreTwoConsecutiveBytes :
    let s : State := { base with x := 0x01, mem := bytes [(0x00FF, 0x34), (0x0100, 0x12)] }
    s.memRead (BitVec.ofNat 16 (((0xFE : Byte).toNat + s.x.toNat) % 256)) = .ok 0x34 ∧
      s.memRead (BitVec.ofNat 16 (((0xFE : Byte).toNat + s.x.toNat) % 256 + 1)) = .ok 0x12 ∧
      s.memRead (BitVec.ofNat 16 (0xFF : Byte).toNat) = .ok 0x34 ∧
      s.memRead (BitVec.ofNat 16 ((0xFF : Byte).toNat + 1)) = .ok 0x12 := ⟨rfl, rfl, rfl, rfl⟩

/-- A crossing index (X = 0x01 from 0x20FF). -/
theorem witness_OperandIsTheByteAtTheEffectiveAddress :
    ({ base with x := 0x01 } : State).effAddr (.abx 0x20FF) = .ok ⟨0x2100, true⟩ ∧
      ({ base with x := 0x01 } : State).memRead 0x2100 = .ok 0x00 := ⟨rfl, rfl⟩

theorem witness_LoadsSetTheirRegisterAndZN :
    (Instr.ldaAbx 0x20FF).mode = (Src.mem (.abx 0x20FF)).mode ∧ (Instr.ldaAbx 0x20FF).mnemonic = .lda ∧
      ({ base with x := 0x01 } : State).loadOperand (Instr.ldaAbx 0x20FF).row.sensitive (.mem (.abx 0x20FF)) = .ok (0x00, 1) ∧
      (Instr.ldxImm 0x05).mode = (Src.imm 0x05).mode ∧ (Instr.ldxImm 0x05).mnemonic = .ldx ∧
      base.loadOperand (Instr.ldxImm 0x05).row.sensitive (.imm 0x05) = .ok (0x05, 0) ∧
      (Instr.ldyZp 0x80).mode = (Src.mem (.zp 0x80)).mode ∧ (Instr.ldyZp 0x80).mnemonic = .ldy ∧
      base.loadOperand (Instr.ldyZp 0x80).row.sensitive (.mem (.zp 0x80)) = .ok (0x00, 0) :=
  ⟨rfl, rfl, rfl, rfl, rfl, rfl, rfl, rfl, rfl⟩

/-- STA to the wait strobe in the window, STX and STY to the store. -/
theorem witness_StoresWriteTheirRegister :
    (Instr.staZp 0x02).mode = .mem (.zp 0x02) ∧ (Instr.staZp 0x02).mnemonic = .sta ∧
      base.effAddr (.zp 0x02) = .ok (plainAddr 0x0002) ∧ (∃ t, base.memWrite 0x0002 base.a = .ok t) ∧
      (Instr.stxAbs 0x3000).mode = .mem (.abs 0x3000) ∧ (Instr.stxAbs 0x3000).mnemonic = .stx ∧
      base.effAddr (.abs 0x3000) = .ok (plainAddr 0x3000) ∧ (∃ t, base.memWrite 0x3000 base.x = .ok t) ∧
      (Instr.styZpx 0xFF).mode = .mem (.zpx 0xFF) ∧ (Instr.styZpx 0xFF).mnemonic = .sty ∧
      base.effAddr (.zpx 0xFF) = .ok (plainAddr 0x00FF) ∧ ∃ t, base.memWrite 0x00FF base.y = .ok t :=
  ⟨rfl, rfl, rfl, ⟨_, rfl⟩, rfl, rfl, rfl, ⟨_, rfl⟩, rfl, rfl, rfl, _, rfl⟩

/-- SP at its last and at its first value: a push at 0x00 and a pull at 0xFF wrap. -/
theorem witness_AccumulatorIsPushedAndPulled :
    (∃ t, ({ base with sp := 0x00 } : State).memWrite (stackAddr 0x00) 0x00 = .ok t) ∧
      base.memRead (stackAddr (base.sp + 1)) = .ok 0x00 := ⟨⟨_, rfl⟩, rfl⟩

theorem witness_StatusIsPushedAndPulled :
    (∃ t, base.memWrite (stackAddr base.sp) (base.p ||| 0x30) = .ok t) ∧
      base.memRead (stackAddr (base.sp + 1)) = .ok 0x00 := ⟨⟨_, rfl⟩, rfl⟩

theorem witness_LogicCombinesTheAccumulator :
    base.loadOperand false (.mem (.zp 0x80)) = .ok (0x00, 0) ∧
      ((Instr.oraZp 0x80).mode = (Src.mem (.zp 0x80)).mode ∧ (Instr.oraZp 0x80).mnemonic = .ora) ∧
      ((Instr.andZp 0x80).mode = (Src.mem (.zp 0x80)).mode ∧ (Instr.andZp 0x80).mnemonic = .and) ∧
      ((Instr.eorZp 0x80).mode = (Src.mem (.zp 0x80)).mode ∧ (Instr.eorZp 0x80).mnemonic = .eor) ∧
      (Instr.bitZp 0x80).mode = (Src.mem (.zp 0x80)).mode ∧ (Instr.bitZp 0x80).mnemonic = .bit ∧
      (Instr.bitZp 0x80).row.sensitive = false :=
  ⟨rfl, ⟨rfl, rfl⟩, ⟨rfl, rfl⟩, ⟨rfl, rfl⟩, rfl, rfl, rfl⟩

theorem witness_AddAndSubtractWithCarry :
    base.loadOperand false (.imm 0x01) = .ok (0x01, 0) ∧
      ((Instr.adcImm 0x01).mode = (Src.imm 0x01).mode ∧ (Instr.adcImm 0x01).mnemonic = .adc) ∧
      (Instr.sbcImm 0x01).mode = (Src.imm 0x01).mode ∧ (Instr.sbcImm 0x01).mnemonic = .sbc :=
  ⟨rfl, ⟨rfl, rfl⟩, rfl, rfl⟩

theorem witness_ComparesOnlyChangeFlags :
    base.loadOperand false (.imm 0x01) = .ok (0x01, 0) ∧
      ((Instr.cmpImm 0x01).mode = (Src.imm 0x01).mode ∧ (Instr.cmpImm 0x01).mnemonic = .cmp) ∧
      ((Instr.cpxImm 0x01).mode = (Src.imm 0x01).mode ∧ (Instr.cpxImm 0x01).mnemonic = .cpx) ∧
      (Instr.cpyImm 0x01).mode = (Src.imm 0x01).mode ∧ (Instr.cpyImm 0x01).mnemonic = .cpy :=
  ⟨rfl, ⟨rfl, rfl⟩, ⟨rfl, rfl⟩, rfl, rfl⟩

theorem witness_MemoryIsIncrementedAndDecremented :
    base.effAddr (.zp 0x80) = .ok (plainAddr 0x0080) ∧ base.memRead 0x0080 = .ok 0x00 ∧
      ((Instr.incZp 0x80).mode = .mem (.zp 0x80) ∧ (Instr.incZp 0x80).mnemonic = .inc) ∧
      (∃ t, base.memWrite 0x0080 (0x00 + 1) = .ok t) ∧
      ((Instr.decZp 0x80).mode = .mem (.zp 0x80) ∧ (Instr.decZp 0x80).mnemonic = .dec) ∧
      ∃ t, base.memWrite 0x0080 (0x00 - 1) = .ok t :=
  ⟨rfl, rfl, ⟨rfl, rfl⟩, ⟨_, rfl⟩, ⟨rfl, rfl⟩, _, rfl⟩

/-- The bytes 0x80 and 0x01, whose outgoing bit is 1, with the reset carry 1; in A and in memory. -/
theorem witness_ShiftsMoveOneBit :
    let s : State := { base with a := 0x80, mem := bytes [(0x80, 0x01)] }
    ((Instr.aslAcc).mnemonic = .asl ∧ (0x00 : Byte).toNat = (0x80 : Byte).toNat * 2 % 256 ∧
        true = decide (128 ≤ (0x80 : Byte).toNat) ∧ Instr.aslAcc.mode = .acc ∧ s.a = 0x80) ∧
      ((Instr.rolAcc).mnemonic = .rol ∧
        (0x01 : Byte).toNat = (0x80 : Byte).toNat * 2 % 256 + (getFlag s.p .c).toNat ∧ Instr.rolAcc.mode = .acc) ∧
      ((Instr.lsrZp 0x80).mnemonic = .lsr ∧ (0x00 : Byte).toNat = (0x01 : Byte).toNat / 2 ∧
        true = decide ((0x01 : Byte).toNat % 2 = 1)) ∧
      ((Instr.rorZp 0x80).mnemonic = .ror ∧
        (0x80 : Byte).toNat = (0x01 : Byte).toNat / 2 + (getFlag s.p .c).toNat * 128) ∧
      (Instr.lsrZp 0x80).mode = .mem (.zp 0x80) ∧ (Instr.rorZp 0x80).mode = .mem (.zp 0x80) ∧
      s.effAddr (.zp 0x80) = .ok (plainAddr 0x0080) ∧ s.memRead 0x0080 = .ok 0x01 ∧
      (∃ t, s.memWrite 0x0080 0x00 = .ok t) ∧ ∃ t, s.memWrite 0x0080 0x80 = .ok t :=
  ⟨by decide, by decide, by decide, by decide, rfl, rfl, rfl, rfl, ⟨_, rfl⟩, _, rfl⟩

/-- The pointer at the end of the space, and the two bytes an RTS pops at SP = 0xFE, which wraps. -/
theorem witness_JumpsAndReturnsGoWhereStated :
    base.memRead 0xFFFF = .ok 0x00 ∧ base.memRead (0xFFFF + 1) = .ok 0x00 ∧
      ({ base with sp := 0xFE } : State).memRead (stackAddr (0xFE + 1)) = .ok 0x00 ∧
      ({ base with sp := 0xFE } : State).memRead (stackAddr (0xFE + 2)) = .ok 0x00 := ⟨rfl, rfl, rfl, rfl⟩

theorem witness_CallPushesTheAddressOfItsLastByte :
    ∃ t u, base.memWrite (stackAddr base.sp) (hiByte (base.pc + 2)) = .ok t ∧
      t.memWrite (stackAddr (base.sp - 1)) (loByte (base.pc + 2)) = .ok u := ⟨_, _, rfl, rfl⟩

/-- Each of the eight, and the flag on both sides. -/
theorem witness_BranchesFollowTheirFlag :
    ∃ l : List (Mnemonic × Byte × Flag × Bool), l =
      [(.bpl, 0x10, .n, false), (.bmi, 0x30, .n, true), (.bvc, 0x50, .v, false), (.bvs, 0x70, .v, true),
        (.bcc, 0x90, .c, false), (.bcs, 0xB0, .c, true), (.bne, 0xD0, .z, false), (.beq, 0xF0, .z, true)] ∧
    ((Instr.bpl 0x80).mode = .rel 0x80 ∧ ((Instr.bpl 0x80).mnemonic, 0x10, Flag.n, false) ∈ l) ∧
      ((Instr.bmi 0x80).mode = .rel 0x80 ∧ ((Instr.bmi 0x80).mnemonic, 0x30, Flag.n, true) ∈ l) ∧
      ((Instr.bvc 0x80).mode = .rel 0x80 ∧ ((Instr.bvc 0x80).mnemonic, 0x50, Flag.v, false) ∈ l) ∧
      ((Instr.bvs 0x80).mode = .rel 0x80 ∧ ((Instr.bvs 0x80).mnemonic, 0x70, Flag.v, true) ∈ l) ∧
      ((Instr.bcc 0x80).mode = .rel 0x80 ∧ ((Instr.bcc 0x80).mnemonic, 0x90, Flag.c, false) ∈ l) ∧
      ((Instr.bcs 0x80).mode = .rel 0x80 ∧ ((Instr.bcs 0x80).mnemonic, 0xB0, Flag.c, true) ∈ l) ∧
      ((Instr.bne 0x80).mode = .rel 0x80 ∧ ((Instr.bne 0x80).mnemonic, 0xD0, Flag.z, false) ∈ l) ∧
      ((Instr.beq 0x80).mode = .rel 0x80 ∧ ((Instr.beq 0x80).mnemonic, 0xF0, Flag.z, true) ∈ l) ∧
      getFlag base.p .n = false ∧ getFlag base.p .z ≠ true :=
  ⟨_, rfl, by decide, by decide, by decide, by decide, by decide, by decide, by decide, by decide, by decide, by decide⟩

theorem witness_FlagInstructionsWriteOneFlag :
    (Instr.clv, (0xB8 : Byte), Flag.v, false) ∈
      [(Instr.clc, (0x18 : Byte), Flag.c, false), (.sec, 0x38, .c, true), (.cli, 0x58, .i, false), (.sei, 0x78, .i, true),
        (.cld, 0xD8, .d, false), (.sed, 0xF8, .d, true), (.clv, 0xB8, .v, false)] ∧ Flag.c ≠ .v := by decide

theorem witness_BreakTakesTheSoftwareInterrupt :
    ∃ t u w, base.memWrite (stackAddr base.sp) (hiByte (base.pc + 2)) = .ok t ∧
      t.memWrite (stackAddr (base.sp - 1)) (loByte (base.pc + 2)) = .ok u ∧
      u.memWrite (stackAddr (base.sp - 2)) (base.p ||| 0x30) = .ok w ∧ w.memRead 0xFFFE = .ok 0x00 ∧
      w.memRead 0xFFFF = .ok 0x00 := ⟨_, _, _, rfl, rfl, rfl, rfl, rfl⟩

theorem witness_ReturnFromInterruptRestoresStatusAndPc :
    base.memRead (stackAddr (base.sp + 1)) = .ok 0x00 ∧ base.memRead (stackAddr (base.sp + 2)) = .ok 0x00 ∧
      base.memRead (stackAddr (base.sp + 3)) = .ok 0x00 := ⟨rfl, rfl, rfl⟩

/-- A read of 0x8000, a pointer past the bound, a read-modify-write and a store at 0x8000, a push and a pull of a machine without a stack
page, a jump through 0x8000. -/
theorem witness_FaultingAccessStopsTheInstruction :
    ((Instr.ldaAbs 0x8000).mode = (Src.mem (.abs 0x8000)).mode ∧
        (Instr.ldaAbs 0x8000).mnemonic ∈
          [.lda, .ldx, .ldy, .ora, .and, .eor, .bit, .adc, .sbc, .cmp, .cpx, .cpy] ∧
        small.loadOperand (Instr.ldaAbs 0x8000).row.sensitive (.mem (.abs 0x8000)) = .error (.boundsError 0x8000)) ∧
      (let s : State := { small with cfg := { Config.default with memSize := 0x80 } };
        (Instr.staIzx 0x80).mode = .mem (.izx 0x80) ∧
        (Instr.staIzx 0x80).mnemonic ∈ [.sta, .stx, .sty, .inc, .dec, .asl, .lsr, .rol, .ror] ∧
        s.effAddr (.izx 0x80) = .error (.boundsError 0x0080)) ∧
      small.effAddr (.abs 0x8000) = .ok (plainAddr 0x8000) ∧
      ((Instr.incAbs 0x8000).mode = .mem (.abs 0x8000) ∧
        (Instr.incAbs 0x8000).mnemonic ∈ [.inc, .dec, .asl, .lsr, .rol, .ror] ∧
        small.memRead 0x8000 = .error (.boundsError 0x8000)) ∧
      (Instr.staAbs 0x8000).mode = .mem (.abs 0x8000) ∧ (Instr.staAbs 0x8000).mnemonic ∈ [.sta, .stx, .sty] ∧
      (∀ v, small.memWrite 0x8000 v = .error (.boundsError 0x8000)) ∧
      (let s : State := { small with cfg := { Config.default with memSize := 0x100 } };
        Instr.brk.mnemonic ∈ [.pha, .php, .jsr, .brk] ∧
        (∀ v, s.memWrite (stackAddr s.sp) v = .error (.boundsError 0x01FF)) ∧
        Instr.rti.mnemonic ∈ [.pla, .plp, .rts, .rti] ∧
        s.memRead (stackAddr (s.sp + 1)) = .error (.boundsError 0x0100)) ∧
      (Instr.jmpInd 0x8000).mode = .ind 0x8000 ∧ small.memRead 0x8000 = .error (.boundsError 0x8000) :=
  ⟨⟨rfl, by decide, rfl⟩, ⟨rfl, by decide, rfl⟩, rfl, ⟨rfl, by decide, rfl⟩, rfl, by decide, fun _ => rfl,
    ⟨by decide, fun _ => rfl, by decide, rfl⟩, rfl, rfl⟩

/-- A later access that lies nowhere: the high byte of a pointer, the second push of a call. -/
theorem witness_FaultingAccessStopsTheInstruction_jumps :
    ((Instr.jmpInd 0x7FFF).mode = .ind 0x7FFF ∧ small.memRead 0x7FFF = .ok 0x00 ∧
      small.memRead (0x7FFF + 1) = .error (.boundsError 0x8000)) ∧
    (let s : State := { sized 0x180 with sp := 0x00 };
      ∃ t, s.memWrite (stackAddr s.sp) (hiByte (s.pc + 2)) = .ok t ∧
        t.memWrite (stackAddr (s.sp - 1)) (loByte (s.pc + 2)) = .error (.boundsError 0x01FF)) :=
  ⟨⟨rfl, rfl, rfl⟩, _, rfl, rfl⟩

/-- A later access that lies nowhere, in BRK: the second push, the third push, the low and the high byte of the vector. -/
theorem witness_FaultingAccessStopsTheInstruction_brk :
    (let s : State := { sized 0x180 with sp := 0x00 };
      ∃ t, s.memWrite (stackAddr s.sp) (hiByte (s.pc + 2)) = .ok t ∧
        t.memWrite (stackAddr (s.sp - 1)) (loByte (s.pc + 2)) = .error (.boundsError 0x01FF)) ∧
    (let s : State := { sized 0x180 with sp := 0x01 };
      ∃ t u, s.memWrite (stackAddr s.sp) (hiByte (s.pc + 2)) = .ok t ∧
        t.memWrite (stackAddr (s.sp - 1)) (loByte (s.pc + 2)) = .ok u ∧
        u.memWrite (stackAddr (s.sp - 2)) (s.p ||| 0x30) = .error (.boundsError 0x01FF)) ∧
    (∃ t u w, small.memWrite (stackAddr small.sp) (hiByte (small.pc + 2)) = .ok t ∧
        t.memWrite (stackAddr (small.sp - 1)) (loByte (small.pc + 2)) = .ok u ∧
        u.memWrite (stackAddr (small.sp - 2)) (small.p ||| 0x30) = .ok w ∧
        w.memRead 0xFFFE = .error (.boundsError 0xFFFE)) ∧
    (let s := sized 0xFFFF;
      ∃ t u w, s.memWrite (stackAddr s.sp) (hiByte (s.pc + 2)) = .ok t ∧
        t.memWrite (stackAddr (s.sp - 1)) (loByte (s.pc + 2)) = .ok u ∧
        u.memWrite (stackAddr (s.sp - 2)) (s.p ||| 0x30) = .ok w ∧ (∃ lo, w.memRead 0xFFFE = .ok lo) ∧
        w.memRead 0xFFFF = .error (.boundsError 0xFFFF)) :=
  ⟨⟨_, rfl, rfl⟩, ⟨_, _, rfl, rfl, rfl⟩, ⟨_, _, _, rfl, rfl, rfl, rfl⟩, _, _, _, rfl, rfl, rfl, ⟨_, rfl⟩, rfl⟩

/-- A later pull that lies nowhere: the second, of RTS and of RTI, and the third, of RTI. -/
theorem witness_FaultingAccessStopsTheInstruction_pulls :
    (let s : State := { sized 0x180 with sp := 0x7E };
      s.memRead (stackAddr (s.sp + 1)) = .ok 0x00 ∧ s.memRead (stackAddr (s.sp + 2)) = .error (.boundsError 0x0180)) ∧
    (let s : State := { sized 0x180 with sp := 0x7D };
      s.memRead (stackAddr (s.sp + 1)) = .ok 0x00 ∧ s.memRead (stackAddr (s.sp + 2)) = .ok 0x00 ∧
        s.memRead (stackAddr (s.sp + 3)) = .error (.boundsError 0x0180)) :=
  ⟨⟨rfl, rfl⟩, rfl, rfl, rfl⟩

theorem witness_CallThenReturnComesBack :
    Memory.wf base.mem = true ∧ base.fault = none ∧ base.stored (stackAddr base.sp) ∧ base.stored (stackAddr (base.sp - 1)) :=
  ⟨rfl, rfl, base_stack_stored.1, base_stack_stored.2.1⟩

theorem witness_InterruptThenReturnComesBack :
    Memory.wf base.mem = true ∧ base.fault = none ∧ base.stored (stackAddr base.sp) ∧
      base.stored (stackAddr (base.sp - 1)) ∧ base.stored (stackAddr (base.sp - 2)) ∧ base.stored 0xFFFE ∧
      base.stored 0xFFFF :=
  ⟨rfl, rfl, base_stack_stored.1, base_stack_stored.2.1, base_stack_stored.2.2, by unfold State.stored; decide,
    by unfold State.stored; decide⟩

theorem witness_PushThenPullStatusForcesBreakBits :
    Memory.wf base.mem = true ∧ base.fault = none ∧ base.stored (stackAddr base.sp) :=
  ⟨rfl, rfl, base_stack_stored.1⟩

end Sys2Proof.Tests
end

section
/-! PROOFS of the family 10_state.md: what reset establishes, what a step keeps (`State.Inv`), and the frame of every instruction,
register by register, flag by flag and on the bus. -/

namespace Sys2Proof.Machine

variable {i : Instr} {s t : State}

/-! ## The frame of an instruction, field by field -/

/-- What the body of an instruction keeps holds from the moment PC has advanced, since the rest of the frame writes
`remaining_cycles` or the latch. -/
theorem exec_keeps_from_advanced {R : State → State → Prop} (hR : Preorder R) (hbody : Op.Keeps R (i.body s.pc))
    (hrem : ∀ s n, R s { s with remaining := n }) (hfault : ∀ s f, R s { s with fault := f })
    (h : exec i s = .next t) : R (advanced s i) t := by
  have hk := hbody (advanced s i)
  rw [exec_eq_runInstr] at h
  rcases runInstr_cases i.length i.row.base (i.body s.pc) s with ⟨_, u, hu, he⟩ | ⟨_, u, hu, he⟩ <;>
    rw [h] at he <;> cases he <;> rw [advanced, hu] at hk
  · exact hR.trans _ _ _ hk (hrem u _)
  · exact hR.trans _ _ _ hk (hfault u _)

/-- What an instruction leaves of a field `g` that bus writes, P, `remaining_cycles` and the latch do not reach: its value from after
the advance of PC, if the registers that the instruction is a writer of do not reach it either. -/
theorem exec_keeps_field {α : Type} (g : State → α) (h : exec i s = .next t)
    (hbus : ∀ s t, SameProcessor s t → g t = g s)
    (hpc : i.mnemonic ∈ controlTransfers → ∀ s v, g { s with pc := v } = g s)
    (ha : i.mnemonic ∈ writersOfA → (i.mnemonic ∈ shiftMnemonics → i.dst = .acc) → ∀ s v, g { s with a := v } = g s)
    (hx : i.mnemonic ∈ writersOfX → ∀ s v, g { s with x := v } = g s)
    (hy : i.mnemonic ∈ writersOfY → ∀ s v, g { s with y := v } = g s)
    (hsp : i.mnemonic ∈ writersOfSp → ∀ s v, g { s with sp := v } = g s)
    (hp : ∀ s v, g { s with p := v } = g s := by intros; rfl)
    (hrem : ∀ s n, g { s with remaining := n } = g s := by intros; rfl)
    (hfault : ∀ s f, g { s with fault := f } = g s := by intros; rfl) : g t = g (advanced s i) :=
  exec_keeps_from_advanced (Preorder.ofField g)
    (body_keeps (Preorder.ofField g) i s.pc (fun _ _ _ _ _ hw => hbus _ _ (memWrite_sameProcessor hw)) hp hpc ha hx hy hsp)
    hrem hfault h

/-- A after an instruction that does not write it: one that is no writer of A, or a shift of memory. -/
theorem exec_a (h : exec i s = .next t)
    (hn : i.mnemonic ∈ writersOfA → (i.mnemonic ∈ shiftMnemonics → i.dst = .acc) → False) : t.a = s.a :=
  exec_keeps_field State.a h (fun _ _ k => k.a) (fun _ _ _ => rfl)
    (fun hm hd => (hn hm hd).elim) (fun _ _ _ => rfl) (fun _ _ _ => rfl) (fun _ _ _ => rfl)

theorem exec_x (h : exec i s = .next t) (hn : i.mnemonic ∉ writersOfX) : t.x = s.x :=
  exec_keeps_field State.x h (fun _ _ k => k.x) (fun _ _ _ => rfl) (fun _ _ _ _ => rfl)
    (fun hm => absurd hm hn) (fun _ _ _ => rfl) (fun _ _ _ => rfl)

theorem exec_y (h : exec i s = .next t) (hn : i.mnemonic ∉ writersOfY) : t.y = s.y :=
  exec_keeps_field State.y h (fun _ _ k => k.y) (fun _ _ _ => rfl) (fun _ _ _ _ => rfl)
    (fun _ _ _ => rfl) (fun hm => absurd hm hn) (fun _ _ _ => rfl)

theorem exec_sp (h : exec i s = .next t) (hn : i.mnemonic ∉ writersOfSp) : t.sp = s.sp :=
  exec_keeps_field State.sp h (fun _ _ k => k.sp) (fun _ _ _ => rfl) (fun _ _ _ _ => rfl)
    (fun _ _ _ => rfl) (fun _ _ _ => rfl) (fun hm => absurd hm hn)

/-- PC after an instruction that transfers no control is the one its frame set (R103). -/
theorem exec_pc (h : exec i s = .next t) (hn : i.mnemonic ∉ controlTransfers) : t.pc = s.pc + BitVec.ofNat 16 i.length :=
  exec_keeps_field State.pc h (fun _ _ k => k.pc) (fun hm => absurd hm hn) (fun _ _ _ _ => rfl)
    (fun _ _ _ => rfl) (fun _ _ _ => rfl) (fun _ _ _ => rfl)

/-- The fields that no register, no bus write and no frame of an instruction reaches. -/
def State.constants (s : State) : Config × Nat × Nat × List (List RregInput) := (s.cfg, s.div, s.hpos, s.inputs)

/-- No instruction touches the parameters, the counters or the environment's queue (R109). -/
theorem exec_constants (h : exec i s = .next t) :
    t.cfg = s.cfg ∧ t.div = s.div ∧ t.hpos = s.hpos ∧ t.inputs = s.inputs := by
  have hg : t.constants = s.constants :=
    exec_keeps_field State.constants h (fun _ _ k => by simp only [State.constants, k.cfg, k.div, k.hpos, k.inputs])
      (fun _ _ _ => rfl) (fun _ _ _ _ => rfl) (fun _ _ _ => rfl) (fun _ _ _ => rfl) (fun _ _ _ => rfl)
  simpa only [State.constants, Prod.mk.injEq] using hg

/-! ## The invariant of the machine -/

/-- The backing store is in canonical form and within its bound (R19). -/
def State.storeOk (s : State) : Prop := Memory.wf s.mem = true ∧ Memory.below s.mem s.cfg.memSize = true

/-- To keep the store so is a relation that composes. -/
theorem storeOk_preorder : Preorder (fun s t => s.storeOk → t.storeOk) :=
  ⟨fun _ h => h, fun _ _ _ h k hs => k (h hs)⟩

/-- Every instruction keeps the store canonical and within its bound: only bus writes reach it. -/
theorem exec_storeOk (h : exec i s = .next t) : s.storeOk → t.storeOk :=
  exec_keeps storeOk_preorder
    (fun pc0 => body_keeps storeOk_preorder i pc0
      (fun _ _ _ _ _ hw hs => memWrite_keeps_store hw hs.1 hs.2) (fun _ _ => id) (fun _ _ _ => id) (fun _ _ _ _ => id)
      (fun _ _ _ => id) (fun _ _ _ => id) (fun _ _ _ => id))
    (fun _ _ => id) (fun _ _ => id) (fun _ _ => id) h

/-- An instruction leaves at most six idle cycles where at most six were left (R20): a faulting one keeps the count. -/
theorem exec_remaining_le_six (h : exec i s = .next t) (hs : s.remaining ≤ 6) : t.remaining ≤ 6 := by
  rcases exec_remaining h with ⟨_, -, -, hle, -⟩ | ⟨hsame, -⟩
  · exact hle
  · exact hsame ▸ hs

namespace State.Inv

/-- The invariant is about the parameters, the store and the counters alone. -/
theorem congr (hs : s.Inv) (hcfg : t.cfg = s.cfg) (hstore : t.storeOk) (hrem : t.remaining ≤ 6) (hdiv : t.div = s.div)
    (hhpos : t.hpos = s.hpos) : t.Inv where
  cfg := hcfg ▸ hs.cfg
  mem := hstore.1
  bound := hstore.2
  remaining := hrem
  div := hdiv ▸ hs.div
  hpos := by rw [hhpos, hcfg]; exact hs.hpos
  phase := by rw [hdiv, hhpos]; exact hs.phase

theorem storeOk (hs : s.Inv) : s.storeOk := ⟨hs.mem, hs.bound⟩

/-- The line of accepted parameters is positive and a multiple of the clock ratio (U10). -/
theorem line (hs : s.Inv) : 0 < s.cfg.lineLen ∧ clkRatio ∣ s.cfg.lineLen := by
  have hwf := hs.cfg
  simp only [Config.wf, Bool.and_eq_true] at hwf
  obtain ⟨⟨⟨-, hline⟩, -⟩, -⟩ := hwf
  simp only [Config.lineOk, Bool.and_eq_true, decide_eq_true_eq, beq_iff_eq] at hline
  exact ⟨hline.1, Nat.dvd_of_mod_eq_zero hline.2⟩

/-- The environment's changes keep the invariant. -/
theorem takeInputs (hs : s.Inv) : s.takeInputs.Inv :=
  hs.congr (takeInputs_cfg s) ⟨by simpa using hs.mem, by simpa using hs.bound⟩ (by simpa using hs.remaining)
    (takeInputs_div s) (takeInputs_hpos s)

/-- The counters stay in range and in phase: the line is a multiple of the clock ratio, so wrapping `hpos` at its end does not
change `hpos` mod the ratio (R113). -/
theorem count (hs : s.Inv) : s.count.Inv where
  cfg := hs.cfg
  mem := hs.mem
  bound := hs.bound
  remaining := hs.remaining
  div := Nat.mod_lt _ (by decide)
  hpos := Nat.mod_lt _ hs.line.1
  phase := by
    calc (s.div + 1) % clkRatio = (s.hpos % clkRatio + 1) % clkRatio := by rw [hs.phase]
      _ = (s.hpos + 1) % clkRatio := Nat.mod_add_mod _ _ _
      _ = (s.hpos + 1) % s.cfg.lineLen % clkRatio := (Nat.mod_mod_of_dvd _ hs.line.2).symm

/-- Every instruction keeps the invariant. -/
theorem exec (hs : s.Inv) (h : exec i s = .next t) : t.Inv := by
  obtain ⟨hcfg, hdiv, hhpos, -⟩ := exec_constants h
  exact hs.congr hcfg (exec_storeOk h hs.storeOk) (exec_remaining_le_six h hs.remaining) hdiv hhpos

/-- Every step keeps the invariant, by the four things a step can do. -/
theorem step (hs : s.Inv) (h : step s = .next t) : t.Inv := by
  have hin := hs.takeInputs
  rcases step_cases s with ⟨_, -, he⟩ | ⟨-, -, he⟩ | ⟨-, i, u, -, hu, he⟩ | ⟨-, _, -, he⟩ <;> rw [h] at he <;> cases he
  case inl => exact hs
  case inr.inl =>
    have hrem : (if s.div = 0 ∧ s.suspended = false then s.remaining - 1 else s.remaining) ≤ 6 := by
      have := hs.remaining
      split <;> omega
    exact count (hin.congr rfl hin.storeOk hrem rfl rfl)
  case inr.inr.inl => exact count (hin.exec hu)
  case inr.inr.inr => exact count (hin.congr rfl hin.storeOk hin.remaining rfl rfl)

end State.Inv

/-- Settles O18, case by case of `step_cases`. -/
theorem everyStepKeepsTheInvariant : Obligations.EveryStepKeepsTheInvariant :=
  fun _ _ hs h => hs.step h

/-- Settles O5, clause by clause. -/
theorem resetMeetsTheInvariant : Obligations.ResetMeetsTheInvariant where
  cfg := by decide
  mem := rfl
  bound := rfl
  remaining := by decide
  div := by decide
  hpos := by decide
  phase := rfl

/-! ## Reset -/

/-- Settles O6, by the three ways reset finds PC: the fixed start address, the vector, or a vector read that fails. -/
theorem hostResetSetsEveryRegisterAndLeavesMemory : Obligations.HostResetSetsEveryRegisterAndLeavesMemory := by
  intro s
  unfold State.hostReset
  cases s.cfg.startPc with
  | some start => exact ⟨start, none, rfl⟩
  | none =>
    dsimp only
    split
    · exact ⟨_, none, rfl⟩
    · exact ⟨s.pc, _, rfl⟩

/-! ## Registers, PC and cycles -/

/-- The shifts and rotates of memory do not have the accumulator as their destination. -/
theorem dst_ne_acc (hm : i.mnemonic ∈ shiftMnemonics) (hmode : i.mode ≠ .acc) : i.dst ≠ .acc := by
  intro hd
  rw [mode_rmw i hm, hd] at hmode
  exact hmode rfl

/-- Settles O27, register by register. -/
theorem registersAreWrittenOnlyByTheirMnemonics : Obligations.RegistersAreWrittenOnlyByTheirMnemonics := by
  intro i s t h
  refine ⟨fun hn => ?_, fun hshift hmode => ?_, exec_x h, exec_y h, exec_sp h⟩
  · exact exec_a h fun hm _ => hn hm
  · exact exec_a h fun _ hd => dst_ne_acc hshift hmode (hd hshift)

/-- Settles O29: PC is the frame's, and nothing reaches the constants. -/
theorem pcAdvancesByTheLength : Obligations.PcAdvancesByTheLength := by
  intro i s t h
  refine ⟨fun hn => ?_, exec_constants h⟩
  simp [exec_pc h hn]

/-- Settles O31: an instruction that leaves the latch clear is not the faulting case of `exec_remaining`. -/
theorem instructionTakesTwoToSevenCycles : Obligations.InstructionTakesTwoToSevenCycles := by
  intro i s t h hf
  rcases exec_remaining h with ⟨_, -, hpos, hsix, hlo, hhi, -⟩ | ⟨-, f, hfault⟩
  · exact ⟨hpos, hsix, hlo, hhi⟩
  · rw [hf] at hfault
    cases hfault

/-! ## The bus -/

/-- The bus after an instruction: what lies outside the addresses it writes is as before, also when it faults after some. -/
theorem exec_touches (h : exec i s = .next t) : Touches (i.writes s) s t := by
  obtain ⟨_, hsub, hw, -⟩ := exec_wrote h
  exact hw.touches.mono fun _ hx => hsub.subset hx

/-- A read outside the window depends on the parameters and on the byte stored there. -/
theorem memRead_store_congr {addr : Word} (hcfg : t.cfg = s.cfg) (hout : inWindow s.cfg addr = false)
    (hget : Memory.get t.mem addr.toNat = Memory.get s.mem addr.toNat) : t.memRead addr = s.memRead addr := by
  simp only [State.memRead, hcfg, hout, hget, Bool.false_eq_true, if_false]

/-- Settles O26, from what the instruction's bus writes touch. -/
theorem instructionsStoreOnlyWhereTheyWrite : Obligations.InstructionsStoreOnlyWhereTheyWrite := by
  intro i s t h
  have ht := exec_touches h
  exact ⟨fun addr hn hout => memRead_store_congr ht.cfg hout (ht.mem addr (.inl hn)), ht.mem, ht.wreg, ht.rreg⟩

/-- Settles O30: an instruction that does not fault makes all its writes. -/
theorem onlyTheWaitStrobeSuspends : Obligations.OnlyTheWaitStrobeSuspends := by
  intro i s t hwf h hf
  obtain ⟨w, -, hw, hall⟩ := exec_wrote h
  rw [← hall hf]
  exact hw.suspended_iff hwf

/-! ## Flags -/

variable {f : Flag}

/-- A flag that a mnemonic does not write is none of those it writes. -/
theorem notMem_of_not_writer {m : Mnemonic} {written : List Flag} (h : m ∉ f.writers)
    (hw : ∀ g ∈ written, m ∈ g.writers) : f ∉ written :=
  fun hf => h (hw f hf)

theorem getFlag_setZN_of_notMem (p v : Byte) (h : f ∉ [.n, .z]) : getFlag (setZN p v) f = getFlag p f := by
  simp only [List.mem_cons, List.not_mem_nil, or_false, not_or] at h
  obtain ⟨hn, hz⟩ := h
  rw [getFlag_setZN, if_neg hn, if_neg hz]

theorem getFlag_adcFlags_of_notMem (vr : VRule) (p a m : Byte) (h : f ∉ [.n, .z, .v, .c]) :
    getFlag (adcFlags vr p a m) f = getFlag p f := by
  simp only [List.mem_cons, List.not_mem_nil, or_false, not_or] at h
  obtain ⟨hn, hz, hv, hc⟩ := h
  simp only [getFlag_adcFlags, if_neg hn, if_neg hz, if_neg hv, if_neg hc]

theorem getFlag_compareFlags_of_notMem (p r m : Byte) (h : f ∉ [.n, .z, .c]) :
    getFlag (compareFlags p r m) f = getFlag p f := by
  simp only [List.mem_cons, List.not_mem_nil, or_false, not_or] at h
  obtain ⟨hn, hz, hc⟩ := h
  rw [getFlag_compareFlags, if_neg hn, if_neg hz, if_neg hc]

theorem getFlag_bitFlags_of_notMem (p a m : Byte) (h : f ∉ [.v, .n, .z]) :
    getFlag (bitFlags p a m) f = getFlag p f := by
  simp only [List.mem_cons, List.not_mem_nil, or_false, not_or] at h
  obtain ⟨hv, hn, hz⟩ := h
  rw [getFlag_bitFlags, if_neg hv, if_neg hn, if_neg hz]

theorem getFlag_shiftFlags_of_notMem (p r : Byte) (out : Bool) (h : f ∉ [.n, .z, .c]) :
    getFlag (shiftFlags p r out) f = getFlag p f := by
  simp only [List.mem_cons, List.not_mem_nil, or_false, not_or] at h
  obtain ⟨hn, hz, hc⟩ := h
  rw [getFlag_shiftFlags, if_neg hn, if_neg hz, if_neg hc]

theorem getFlag_setFlag_of_notMem (p : Byte) (g : Flag) (b : Bool) (h : f ∉ [g]) :
    getFlag (setFlag p g b) f = getFlag p f :=
  getFlag_setFlag_ne p b (List.ne_of_not_mem_cons h)

/-- PLP and RTI load all of P: they are writers of every flag (R15). -/
theorem wholeP_writes (f : Flag) : .plp ∈ f.writers ∧ .rti ∈ f.writers := by
  cases f <;> decide

/-- The flag is as before. -/
def KeepsFlag (f : Flag) (s t : State) : Prop := getFlag t.p f = getFlag s.p f

theorem keepsFlag_preorder (f : Flag) : Preorder (KeepsFlag f) := Preorder.ofField fun s => getFlag s.p f

theorem memWrite_keepsFlag (addr : Word) (v : Byte) (s t : State) (h : s.memWrite addr v = .ok t) : KeepsFlag f s t :=
  congrArg (getFlag · f) (memWrite_sameProcessor h).p

/-- An instruction's body keeps every flag its mnemonic is not listed for, by what each group of mnemonics computes P with. -/
theorem body_keepsFlag (i : Instr) (pc0 : Word) (h : i.mnemonic ∉ f.writers) : Op.Keeps (KeepsFlag f) (i.body pc0) := by
  have hR := keepsFlag_preorder f
  have hw : ∀ addr b s t, s.memWrite addr b = .ok t → KeepsFlag f s t := memWrite_keepsFlag
  have hsp : ∀ s v, KeepsFlag f s { s with sp := v } := fun _ _ => rfl
  have hpc : ∀ s v, KeepsFlag f s { s with pc := v } := fun _ _ => rfl
  have hnot : ∀ written : List Flag, (∀ g ∈ written, i.mnemonic ∈ g.writers) → f ∉ written :=
    fun _ => notMem_of_not_writer h
  unfold Instr.body
  cases hm : i.mnemonic <;> rw [hm] at h hnot <;> dsimp only
  case lda | ldx | ldy | ora | and | eor =>
    exact Op.Keeps.readInstr hR _ _ fun _ _ => getFlag_setZN_of_notMem _ _ (hnot _ (by decide))
  case adc | sbc =>
    exact Op.Keeps.readInstr hR _ _ fun _ _ => getFlag_adcFlags_of_notMem _ _ _ _ (hnot _ (by decide))
  case cmp | cpx | cpy =>
    exact Op.Keeps.readInstr hR _ _ fun _ _ => getFlag_compareFlags_of_notMem _ _ _ (hnot _ (by decide))
  case bit =>
    exact Op.Keeps.readInstr hR _ _ fun _ _ => getFlag_bitFlags_of_notMem _ _ _ (hnot _ (by decide))
  case sta | stx | sty => exact Op.Keeps.storeInstr hR _ _ hw
  case tax | tay | txa | tya | tsx | inx | iny | dex | dey =>
    exact Op.Keeps.registerInstr hR fun _ => getFlag_setZN_of_notMem _ _ (hnot _ (by decide))
  case txs => exact Op.Keeps.registerInstr hR fun s => hsp s s.x
  case inc | dec =>
    exact Op.Keeps.rmwInstr hR _ _ hw (fun _ _ _ => rfl) fun _ _ => getFlag_setZN_of_notMem _ _ (hnot _ (by decide))
  case asl | lsr =>
    exact Op.Keeps.rmwInstr hR _ _ hw (fun _ _ _ => rfl) fun _ _ => getFlag_shiftFlags_of_notMem _ _ _ (hnot _ (by decide))
  case rol | ror =>
    exact Op.Keeps.bind hR (Op.Keeps.getState hR) fun _ =>
      Op.Keeps.rmwInstr hR _ _ hw (fun _ _ _ => rfl) fun _ _ => getFlag_shiftFlags_of_notMem _ _ _ (hnot _ (by decide))
  case clc | sec | cli | sei | cld | sed | clv =>
    exact Op.Keeps.registerInstr hR fun _ => getFlag_setFlag_of_notMem _ _ _ (hnot _ (by decide))
  case nop => exact Op.Keeps.pure hR 0
  case pha | php =>
    exact Op.Keeps.bind hR (Op.Keeps.getState hR) fun _ =>
      Op.Keeps.bind hR (Op.Keeps.push hR _ hw hsp) fun _ => Op.Keeps.pure hR 0
  case pla =>
    exact Op.Keeps.bind hR (Op.Keeps.pop hR hsp) fun _ =>
      Op.Keeps.bind hR (Op.Keeps.update fun _ => getFlag_setZN_of_notMem _ _ (hnot _ (by decide))) fun _ =>
        Op.Keeps.pure hR 0
  case plp => exact absurd (wholeP_writes f).1 h
  case rti => exact absurd (wholeP_writes f).2 h
  case jmp =>
    split
    · exact Op.Keeps.bind hR (Op.Keeps.readBy hR _) fun target =>
        Op.Keeps.bind hR (Op.Keeps.update fun s => hpc s target) fun _ => Op.Keeps.pure hR 0
    · exact Op.Keeps.registerInstr hR fun s => hpc s i.target
  case jsr =>
    exact Op.Keeps.bind hR (Op.Keeps.pushWord hR _ hw hsp) fun _ =>
      Op.Keeps.bind hR (Op.Keeps.update fun s => hpc s i.target) fun _ => Op.Keeps.pure hR 0
  case rts =>
    exact Op.Keeps.bind hR (Op.Keeps.popWord hR hsp) fun ret =>
      Op.Keeps.bind hR (Op.Keeps.update fun s => hpc s (ret + 1)) fun _ => Op.Keeps.pure hR 0
  case bpl | bmi | bvc | bvs | bcc | bcs | bne | beq => exact Op.Keeps.branchIf hR _ _ _ hpc
  case brk =>
    have hi : ∀ s, KeepsFlag f s (s.putFlag .i true) :=
      fun _ => getFlag_setFlag_of_notMem _ _ _ (hnot _ (by decide))
    exact Op.Keeps.bind hR (Op.Keeps.takeSoftwareInterrupt hR _ hw hsp hi hpc) fun _ => Op.Keeps.pure hR 0

/-- Settles O28: the frame of an instruction does not reach P, and its body keeps the flag. -/
theorem flagsAreWrittenOnlyByTheirWriters : Obligations.FlagsAreWrittenOnlyByTheirWriters :=
  fun _ _ _ f h hn =>
    exec_keeps (keepsFlag_preorder f) (fun pc0 => body_keepsFlag _ pc0 hn) (fun _ _ => rfl) (fun _ _ => rfl)
      (fun _ _ => rfl) h

end Sys2Proof.Machine
end

section
/-! PROOFS of the family 20_memory.md: the bus and its faults, the peripheral window, the read side across a step, suspension, and
the host's flush and colour lookup. -/

namespace Sys2Proof.Machine

variable {i : Instr} {s t : State} {addr : Word} {v : Byte} {f : Fault}

/-! ## Faults of an access -/

/-- A read faults exactly outside the window and the store (R43). -/
theorem memRead_eq_error_iff (s : State) (addr : Word) :
    s.memRead addr = .error (.boundsError addr) ↔ inWindow s.cfg addr = false ∧ s.cfg.memSize ≤ addr.toNat := by
  refine ⟨fun h => ?_, fun ⟨hout, hle⟩ => ?_⟩
  · rcases memRead_cases s addr with ⟨_, he⟩ | ⟨-, hwhere⟩
    · rw [h] at he; cases he
    · exact hwhere
  · simp only [State.memRead, hout, Bool.false_eq_true, if_false, if_neg (Nat.not_lt.mpr hle)]

/-- A write faults exactly there too. -/
theorem memWrite_eq_error_iff (s : State) (addr : Word) (v : Byte) :
    s.memWrite addr v = .error (.boundsError addr) ↔ inWindow s.cfg addr = false ∧ s.cfg.memSize ≤ addr.toNat := by
  rcases memWrite_cases s addr v with ⟨hin, he⟩ | ⟨-, hlt, he⟩ | ⟨hout, hle, he⟩
  · simp [he, hin]
  · simp [he, hlt]
  · simp [he, hout, hle]

/-- A failed write says its own address. -/
theorem memWrite_error (h : s.memWrite addr v = .error f) : f = .boundsError addr := by
  rcases memWrite_cases s addr v with ⟨-, he⟩ | ⟨-, -, he⟩ | ⟨-, -, he⟩ <;> rw [h] at he <;> cases he
  rfl

/-- With the whole space stored every write succeeds. -/
theorem memWrite_full (h : s.cfg.memSize = 65536) (addr : Word) (v : Byte) : ∃ t, s.memWrite addr v = .ok t :=
  have ⟨_, hr⟩ := memRead_full h addr
  memWrite_of_memRead hr v

/-- Settles O25, from the exact condition and the address of a failed read and of a failed write. -/
theorem boundsErrorExactlyOutsideTheStore : Obligations.BoundsErrorExactlyOutsideTheStore :=
  fun s addr v =>
    ⟨memRead_eq_error_iff s addr, memWrite_eq_error_iff s addr v, fun _ => memRead_error, fun _ => memWrite_error,
      fun h => ⟨memRead_full h addr, memWrite_full h addr v⟩⟩

/-! ## Faults of an instruction -/

/-- A fault that an access ends in on a machine with these parameters: BoundsError at an address that is neither in the window nor
below `MEM_SIZE` (R43). -/
def OutOfBounds (c : Config) (f : Fault) : Prop :=
  ∃ addr : Word, f = .boundsError addr ∧ inWindow c addr = false ∧ c.memSize ≤ addr.toNat

/-- With the whole space stored no access faults. -/
theorem not_outOfBounds_of_full {c : Config} (h : c.memSize = 65536) : ¬OutOfBounds c f := by
  rintro ⟨addr, -, -, hle⟩
  have := addr.isLt
  omega

/-- Whatever fault these accesses of a machine with these parameters end in is out of bounds. -/
def AccessFaults {α : Type} (c : Config) (x : Except Fault α) : Prop := ∀ f, x = .error f → OutOfBounds c f

namespace AccessFaults

variable {c : Config} {α β : Type}

theorem ok (a : α) : AccessFaults c (.ok a) := fun _ h => nomatch h

theorem bind {x : Except Fault α} {g : α → Except Fault β} (hx : AccessFaults c x) (hg : ∀ a, AccessFaults c (g a)) :
    AccessFaults c (x >>= g) := by
  cases x with
  | ok a => exact hg a
  | error e => exact fun _ h => by cases h; exact hx e rfl

theorem memRead (s : State) (addr : Word) : AccessFaults s.cfg (s.memRead addr) := by
  intro f h
  rcases memRead_cases s addr with ⟨_, he⟩ | ⟨he, hout, hle⟩ <;> rw [h] at he <;> cases he
  exact ⟨addr, rfl, hout, hle⟩

theorem memWrite (s : State) (addr : Word) (v : Byte) : AccessFaults s.cfg (s.memWrite addr v) := by
  intro f h
  rcases memWrite_cases s addr v with ⟨-, he⟩ | ⟨-, -, he⟩ | ⟨hout, hle, he⟩ <;> rw [h] at he <;> cases he
  exact ⟨addr, rfl, hout, hle⟩

theorem memRead16 (s : State) (addr : Word) : AccessFaults s.cfg (s.memRead16 addr) :=
  bind (memRead s addr) fun _ => bind (memRead s (addr + 1)) fun _ => ok _

theorem effAddr (s : State) (m : MemMode) : AccessFaults s.cfg (s.effAddr m) := by
  cases m with
  | zp | zpx | zpy | abs | abx | aby => exact ok _
  | izx | izy => exact bind (memRead16 s _) fun _ => ok _

theorem loadOperand (s : State) (sensitive : Bool) (src : Src) : AccessFaults s.cfg (s.loadOperand sensitive src) := by
  cases src with
  | imm => exact ok _
  | mem m => exact bind (effAddr s m) fun ea => bind (memRead s ea.addr) fun _ => ok _

end AccessFaults

/-- Pseudocode that keeps the parameters and faults only out of bounds. -/
def Op.FaultsOutOfBounds {α : Type} (x : Op α) : Prop :=
  ∀ s, match x s with
    | .ok _ t => t.cfg = s.cfg
    | .error f _ => OutOfBounds s.cfg f

namespace Op.FaultsOutOfBounds

variable {α β : Type}

theorem bind {x : Op α} {g : α → Op β} (hx : FaultsOutOfBounds x) (hg : ∀ a, FaultsOutOfBounds (g a)) :
    FaultsOutOfBounds (x >>= g) := by
  intro s
  have h := hx s
  rw [bind_run]
  cases hxs : x s with
  | error e t => rw [hxs] at h; exact h
  | ok a t =>
    rw [hxs] at h
    have hcfg : t.cfg = s.cfg := h
    exact hcfg ▸ hg a t

theorem pure (a : α) : FaultsOutOfBounds (Pure.pure a : Op α) := fun _ => rfl

theorem getState : FaultsOutOfBounds Machine.getState := fun _ => rfl

theorem update {g : State → State} (h : ∀ s, (g s).cfg = s.cfg := by intros; rfl) : FaultsOutOfBounds (Machine.update g) := h

theorem readBy {g : State → Except Fault α} (h : ∀ s, AccessFaults s.cfg (g s)) : FaultsOutOfBounds (Machine.readBy g) := by
  intro s
  cases hg : g s with
  | ok a => rw [readBy_run_ok hg]
  | error e => rw [readBy_run_error hg]; exact h s e hg

theorem busWrite (addr : Word) (v : Byte) : FaultsOutOfBounds (Machine.busWrite addr v) := by
  intro s
  cases hw : s.memWrite addr v with
  | ok t => rw [busWrite_run_ok hw]; exact (memWrite_sameProcessor hw).cfg
  | error e => rw [busWrite_run_error hw]; exact AccessFaults.memWrite s addr v e hw

theorem readInstr (src : Src) (sensitive : Bool) {g : Byte → State → State}
    (h : ∀ m s, (g m s).cfg = s.cfg := by intros; rfl) : FaultsOutOfBounds (Machine.readInstr src sensitive g) :=
  bind (readBy fun s => AccessFaults.loadOperand s sensitive src) fun (m, _) => bind (update (h m)) fun _ => pure _

theorem storeInstr (m : MemMode) (g : State → Byte) : FaultsOutOfBounds (Machine.storeInstr m g) :=
  bind getState fun _ => bind (readBy fun s => AccessFaults.effAddr s m) fun _ => bind (busWrite _ _) fun _ => pure _

theorem rmwInstr (d : Dst) (g : Byte → Byte) {flags : Byte → State → State}
    (h : ∀ old s, (flags old s).cfg = s.cfg := by intros; rfl) : FaultsOutOfBounds (Machine.rmwInstr d g flags) := by
  refine bind ?_ fun old => bind (update (h old)) fun _ => pure _
  cases d with
  | acc => exact bind getState fun _ => bind update fun _ => pure _
  | mem m =>
    exact bind (readBy fun s => AccessFaults.effAddr s m) fun ea =>
      bind (readBy fun s => AccessFaults.memRead s ea.addr) fun _ => bind (busWrite _ _) fun _ => pure _

theorem registerInstr {g : State → State} (h : ∀ s, (g s).cfg = s.cfg := by intros; rfl) :
    FaultsOutOfBounds (Machine.registerInstr g) :=
  bind (update h) fun _ => pure _

theorem branchIf (cond : State → Bool) (pc0 : Word) (disp : Byte) :
    FaultsOutOfBounds (Machine.branchIf cond pc0 disp) := by
  refine bind getState fun s => ?_
  split
  · exact bind update fun _ => pure _
  · exact pure _

theorem push (b : Byte) : FaultsOutOfBounds (Machine.push b) :=
  bind getState fun _ => bind (busWrite _ _) fun _ => update

theorem pop : FaultsOutOfBounds Machine.pop :=
  bind update fun _ => readBy fun s => AccessFaults.memRead s _

theorem pushWord (w : Word) : FaultsOutOfBounds (Machine.pushWord w) :=
  bind (push _) fun _ => push _

theorem popWord : FaultsOutOfBounds Machine.popWord :=
  bind pop fun _ => bind pop fun _ => pure _

theorem takeSoftwareInterrupt (pc0 : Word) : FaultsOutOfBounds (Machine.takeSoftwareInterrupt pc0) :=
  bind (pushWord _) fun _ => bind getState fun _ => bind (push _) fun _ => bind update fun _ =>
    bind (readBy fun s => AccessFaults.memRead16 s _) fun _ => update

theorem returnFromInterrupt : FaultsOutOfBounds Machine.returnFromInterrupt :=
  bind pop fun _ => bind update fun _ => bind popWord fun _ => update

/-- No instruction's body faults but by an access out of bounds: each is made of shared operations that do not. -/
theorem body (i : Instr) (pc0 : Word) : FaultsOutOfBounds (i.body pc0) := by
  unfold Instr.body
  cases i.mnemonic <;> dsimp only
  case lda | ldx | ldy | ora | and | eor | adc | sbc | cmp | cpx | cpy | bit => exact readInstr _ _
  case sta | stx | sty => exact storeInstr _ _
  case tax | tay | txa | tya | tsx | txs | inx | iny | dex | dey => exact registerInstr
  case clc | sec | cli | sei | cld | sed | clv => exact registerInstr
  case inc | dec | asl | lsr => exact rmwInstr _ _
  case rol | ror => exact bind getState fun _ => rmwInstr _ _
  case nop => exact pure _
  case pha | php => exact bind getState fun _ => bind (push _) fun _ => pure _
  case pla | plp => exact bind pop fun _ => bind update fun _ => pure _
  case jmp =>
    split
    · exact bind (readBy fun s => AccessFaults.memRead16 s _) fun _ => bind update fun _ => pure _
    · exact registerInstr
  case jsr => exact bind (pushWord _) fun _ => bind update fun _ => pure _
  case rts => exact bind popWord fun _ => bind update fun _ => pure _
  case bpl | bmi | bvc | bvs | bcc | bcs | bne | beq => exact branchIf _ _ _
  case brk => exact bind (takeSoftwareInterrupt _) fun _ => pure _
  case rti => exact bind returnFromInterrupt fun _ => pure _

end Op.FaultsOutOfBounds

/-- An instruction keeps the latch, or it latches an access out of bounds. -/
theorem exec_fault (h : exec i s = .next t) : t.fault = s.fault ∨ ∃ f, t.fault = some f ∧ OutOfBounds s.cfg f := by
  have hkeep := body_keeps_field State.fault (fun _ _ k => k.fault) (fun _ _ => rfl) (fun _ _ => rfl) (fun _ _ => rfl)
    (fun _ _ => rfl) (fun _ _ => rfl) (fun _ _ => rfl) i s.pc (advanced s i)
  have hout := Op.FaultsOutOfBounds.body i s.pc (advanced s i)
  rw [exec_eq_runInstr] at h
  rcases runInstr_cases i.length i.row.base (i.body s.pc) s with ⟨_, u, hu, he⟩ | ⟨f, u, hu, he⟩ <;>
    rw [h] at he <;> cases he <;> rw [advanced, hu] at hkeep hout
  · exact .inl hkeep
  · exact .inr ⟨f, rfl, hout⟩

/-- With the whole space stored every instruction keeps the latch. -/
theorem exec_fault_of_full (hfull : s.cfg.memSize = 65536) (h : exec i s = .next t) : t.fault = s.fault :=
  (exec_fault h).resolve_right fun ⟨_, _, hout⟩ => not_outOfBounds_of_full hfull hout

/-- A fetch ends in a fault at an access out of bounds or at an illegal opcode (R271, R276). -/
theorem fetch_error (h : s.fetch = .error f) :
    OutOfBounds s.cfg f ∨ ∃ op, f = .decodeError op s.pc ∧ s.memRead s.pc = .ok op ∧ opcodeTable op = none := by
  unfold State.fetch at h
  cases hop : s.memRead s.pc with
  | error e =>
    rw [hop] at h
    cases h
    exact .inl (AccessFaults.memRead s s.pc f hop)
  | ok op =>
    have hread := AccessFaults.memRead s
    rw [hop] at h
    cases hrow : opcodeTable op with
    | none =>
      simp only [bind, Except.bind, hrow] at h
      cases h
      exact .inr ⟨op, rfl, rfl, hrow⟩
    | some format =>
      simp only [bind, Except.bind, hrow] at h
      cases format with
      | f1 => cases h
      | f2 => exact .inl (AccessFaults.bind (hread _) (fun _ => .ok _) f h)
      | f3 => exact .inl (AccessFaults.bind (hread _) (fun _ => .bind (hread _) fun _ => .ok _) f h)

/-- Settles O32: of the things a step can do, only the fetch of an illegal opcode latches a fault in a full store. -/
theorem onlyIllegalOpcodesFaultInAFullStore : Obligations.OnlyIllegalOpcodesFaultInAFullStore := by
  refine ⟨fun _ _ _ => exec_fault_of_full, fun s t f hfull hs h hf => ?_⟩
  have hfull' : s.takeInputs.cfg.memSize = 65536 := by rw [State.takeInputs_cfg, hfull]
  rcases step_cases s with ⟨_, hs', -⟩ | ⟨-, -, he⟩ | ⟨-, _, u, -, hu, he⟩ | ⟨hfetching, g, hfetch, he⟩
  · rw [hs] at hs'
    cases hs'
  · rw [h] at he
    cases he
    simp [hs] at hf
  · rw [h] at he
    cases he
    have hkeep : u.fault = none := by rw [exec_fault_of_full hfull' hu, State.takeInputs_fault, hs]
    rw [State.count_fault, hkeep] at hf
    cases hf
  · rw [h] at he
    cases he
    cases hf
    obtain ⟨op, rfl, hop, hrow⟩ := (fetch_error hfetch).resolve_left (not_outOfBounds_of_full hfull')
    rw [State.takeInputs_pc] at hop ⊢
    exact ⟨hfetching, op, rfl, hop, hrow, rfl⟩

/-! ## The backing store -/

/-- A write to the store replaces one byte of it. -/
theorem memWrite_stored (h : s.stored addr) (v : Byte) :
    s.memWrite addr v = .ok { s with mem := Memory.put s.mem addr.toNat v } := by
  obtain ⟨hout, hlt⟩ := h
  simp only [State.memWrite, hout, Bool.false_eq_true, if_false, if_pos hlt]

/-- A read of the store gives the byte stored there. -/
theorem memRead_stored (h : s.stored addr) : s.memRead addr = .ok (Memory.get s.mem addr.toNat) := by
  obtain ⟨hout, hlt⟩ := h
  simp only [State.memRead, hout, Bool.false_eq_true, if_false, if_pos hlt]

/-- A write to the store does not change what another address reads as, in the window or out of it. -/
theorem memRead_put_other {b : Word} (hne : b ≠ addr) :
    ({ s with mem := Memory.put s.mem addr.toNat v } : State).memRead b = s.memRead b := by
  have hget := Memory.get_put_other s.mem v (mt BitVec.eq_of_toNat_eq hne)
  simp only [State.memRead, State.periphRead, hget]

/-- Settles O21, by read after write at the address and away from it. -/
theorem storedByteReadsBack : Obligations.StoredByteReadsBack := by
  intro s t addr v hwf hst h
  rw [memWrite_stored hst] at h
  cases h
  refine ⟨?_, fun b => memRead_put_other, rfl⟩
  have hread := memRead_stored (s := { s with mem := Memory.put s.mem addr.toNat v }) hst
  rwa [Memory.get_put_same _ _ hwf] at hread

/-- Settles O8, by the definition of `flush`. -/
theorem flushZeroesTheStoreAndNothingElse : Obligations.FlushZeroesTheStoreAndNothingElse :=
  fun _ _ => ⟨rfl, rfl⟩

/-! ## The peripheral window -/

/-- On the write side a window write latches its byte and strobes (R45 to R47). -/
theorem periphWrite_writeSide (s : State) {o : Nat} (v : Byte) (h : o ≤ 0x2C) :
    s.periphWrite o v = (s.latchWreg o v).strobe o := if_pos h

/-- The clear zeroes the collision registers and leaves the input ports (R47). -/
theorem getElem_clearCollisions (r : Vector Byte 14) (k : Fin 14) :
    (clearCollisions r)[k] = if k.val < 8 then 0x00 else r[k] := by
  simp [clearCollisions]

/-- A window write reaches the latches, the read side and `suspended`, and nothing else (R42). -/
theorem periphWrite_frame (s : State) (o : Nat) (v : Byte) :
    { s.periphWrite o v with wreg := s.wreg, rreg := s.rreg, suspended := s.suspended } = s := by
  unfold State.periphWrite
  split <;> rfl

/-- The read side after a write on the write side. -/
theorem periphWrite_writeSide_rreg (s : State) {o : Nat} (v : Byte) (h : o ≤ 0x2C) (k : Fin 14) :
    (s.periphWrite o v).rreg[k] = if o = s.cfg.cxclrOffset ∧ k.val < 8 then 0x00 else s.rreg[k] := by
  by_cases hclear : o = s.cfg.cxclrOffset
  · rw [periphWrite_writeSide s v h]
    simpa [hclear] using getElem_clearCollisions s.rreg k
  · simp [periphWrite_rreg s o v hclear, hclear]

/-- Settles O22: an in-window write is the window's effect at the address's offset, read field by field. -/
theorem windowWriteGoesToThePeripheral : Obligations.WindowWriteGoesToThePeripheral := by
  intro s addr v hin
  refine ⟨_, if_pos hin, periphWrite_frame s _ v, periphWrite_readSide s v, periphWrite_wreg s _ v, fun hw => ⟨?_, ?_⟩⟩
  · rw [periphWrite_writeSide s v hw]
    simp
  · exact periphWrite_writeSide_rreg s v hw

/-- An in-window offset off the read side reads as the placeholder (R50). -/
theorem memRead_placeholder (hin : inWindow s.cfg addr = true)
    (ho : windowOffset s.cfg addr < 0x30 ∨ 0x3D < windowOffset s.cfg addr) : s.memRead addr = .ok s.cfg.rdPlaceholder := by
  have hside : ¬(0x30 ≤ windowOffset s.cfg addr ∧ windowOffset s.cfg addr ≤ 0x3D) := by omega
  simp only [State.memRead, hin, if_true, State.periphRead, dif_neg hside]

/-- A read-side register reads as its current value (R49). -/
theorem memRead_readSide {k : Fin 14} (hin : inWindow s.cfg addr = true) (ho : windowOffset s.cfg addr = 0x30 + k.val) :
    s.memRead addr = .ok s.rreg[k] := by
  have hside : 0x30 ≤ 0x30 + k.val ∧ 0x30 + k.val ≤ 0x3D := by omega
  simp [State.memRead, hin, State.periphRead, ho, hside]

/-! ## The window across a step -/

/-- No step changes the parameters. -/
theorem step_cfg (h : step s = .next t) : t.cfg = s.cfg := by
  rcases step_cases s with ⟨_, -, he⟩ | ⟨-, -, he⟩ | ⟨-, _, u, -, hu, he⟩ | ⟨-, _, -, he⟩ <;>
    rw [h] at he <;> cases he
  case inl => rfl
  case inr.inl => simp
  case inr.inr.inl => simp [(exec_constants hu).1]
  case inr.inr.inr => simp

/-- Settles O23: the placeholder is a parameter, and no step changes the parameters. -/
theorem placeholderReadIsStable : Obligations.PlaceholderReadIsStable := by
  intro s t addr hin ho h
  have hcfg := step_cfg h
  refine ⟨memRead_placeholder hin ho, ?_⟩
  rw [← hcfg] at hin ho ⊢
  exact memRead_placeholder hin ho

/-- An instruction leaves an input port as it was, and a collision register unless it writes the clear (R47). -/
theorem exec_rreg {k : Fin 14} (h : exec i s = .next t)
    (hclear : k.val < 8 → windowAddr s.cfg s.cfg.cxclrOffset ∉ i.writes s) : t.rreg[k] = s.rreg[k] := by
  by_cases hk : k.val < 8
  · rw [(exec_touches h).rreg (hclear hk)]
  · exact exec_port h k (by omega)

/-- A step leaves a read-side register as the environment left it, unless it executes a write of the clear. -/
theorem step_rreg {k : Fin 14} (hs : s.fault = none) (h : step s = .next t)
    (hclear : k.val < 8 → s.fetching → ∀ i, s.takeInputs.fetch = .ok i →
      windowAddr s.cfg s.cfg.cxclrOffset ∉ i.writes s.takeInputs) : t.rreg[k] = s.takeInputs.rreg[k] := by
  rcases step_cases s with ⟨_, hf, -⟩ | ⟨-, -, he⟩ | ⟨hfetching, i, u, hfetch, hu, he⟩ | ⟨-, _, -, he⟩
  · rw [hs] at hf
    cases hf
  all_goals rw [h] at he; cases he
  · rfl
  · refine (exec_rreg hu fun hk => ?_ : u.rreg[k] = _)
    rw [State.takeInputs_cfg]
    exact hclear hk hfetching i hfetch
  · rfl

/-- A halted machine steps to itself (R273). -/
theorem step_of_fault (hf : s.fault = some f) : step s = .next s := by
  simp only [step, masterTick, hf, Option.isSome_some, if_true]

/-- Settles O24: a read gives the register, and `step_rreg` says what the step left in it; a halted machine stays as it is. -/
theorem readSideRegisterReadsItsValue : Obligations.ReadSideRegisterReadsItsValue := by
  intro s addr k hin ho
  refine ⟨memRead_readSide hin ho, fun t h hclear => ?_⟩
  have hread : t.memRead addr = .ok t.rreg[k] := by
    rw [← step_cfg h] at hin ho
    exact memRead_readSide hin ho
  rw [hread]
  refine ⟨fun hs => by rw [step_rreg hs h hclear], fun hempty => ?_⟩
  cases hs : s.fault with
  | none => rw [step_rreg hs h hclear, takeInputs_nil hempty]
  | some f =>
    rw [step_of_fault hs] at h
    cases h
    rfl

/-! ## Suspension -/

/-- The state a suspended machine is in after waiting `k` steps: the counters have advanced and the environment has made its
changes for those steps (R108). -/
def State.waited (s : State) (k : Nat) : State :=
  { s with
    div := (s.div + k) % clkRatio
    hpos := (s.hpos + k) % s.cfg.lineLen
    rreg := applyInputs s.rreg (s.inputs.take k).flatten
    inputs := s.inputs.drop k }

theorem waited_zero (hs : s.Inv) : s.waited 0 = s := by
  simp [State.waited, Nat.mod_eq_of_lt hs.div, Nat.mod_eq_of_lt hs.hpos]

/-- A step of a suspended machine is the environment's changes and one count (R108). -/
theorem step_suspended (hf : s.fault = none) (hsus : s.suspended = true) : step s = .next s.takeInputs.count := by
  simp [step, masterTick, advance, tick, hf, hsus]

/-- One step more of waiting; the suspension ends at the start of horizontal blank (R112). -/
theorem waited_takeInputs_count (hsus : s.suspended = true) (k : Nat) :
    (s.waited k).takeInputs.count =
      { s.waited (k + 1) with suspended := (s.hpos + (k + 1)) % s.cfg.lineLen != s.cfg.hblankStart } := by
  rw [takeInputs_eq, takeInputs_rreg]
  simp [State.waited, State.count, List.take_add, ← applyInputs_append, Nat.add_assoc, List.tail_drop, hsus]

/-- A run that has waited so far, one step further. -/
theorem run_succ_of_waited {k : Nat} (hf : s.fault = none) (hsus : s.suspended = true)
    (hrun : Host.Core.run Sys2Proof.core k s = .next (s.waited k)) :
    Host.Core.run Sys2Proof.core (k + 1) s =
      .next { s.waited (k + 1) with suspended := (s.hpos + (k + 1)) % s.cfg.lineLen != s.cfg.hblankStart } :=
  (run_succ_of_run Sys2Proof.core hrun).trans
    ((step_suspended (s := s.waited k) hf hsus).trans (congrArg Host.Outcome.next (waited_takeInputs_count hsus k)))

/-- A run that does not reach the start of horizontal blank waits all its steps. -/
theorem run_suspended {k : Nat} (hs : s.Inv) (hf : s.fault = none) (hsus : s.suspended = true)
    (hk : ∀ j, j < k → (s.hpos + 1 + j) % s.cfg.lineLen ≠ s.cfg.hblankStart) :
    Host.Core.run Sys2Proof.core k s = .next (s.waited k) := by
  induction k with
  | zero => exact (run_zero Sys2Proof.core s).trans (by rw [waited_zero hs])
  | succ k ih =>
    have hrun := ih fun j hj => hk j (Nat.lt_succ_of_lt hj)
    have hbefore : (s.hpos + (k + 1)) % s.cfg.lineLen ≠ s.cfg.hblankStart := by
      rw [Nat.add_comm k 1, ← Nat.add_assoc]
      exact hk k (Nat.lt_succ_self k)
    refine (run_succ_of_waited hf hsus hrun).trans (congrArg (α := State) Host.Outcome.next ?_)
    simp only [State.waited, bne_iff_ne.mpr hbefore, hsus]

/-- Settles O19: the run waits, and the step that reaches the start of horizontal blank clears `suspended`. -/
theorem suspensionLastsToTheHorizontalBlank : Obligations.SuspensionLastsToTheHorizontalBlank := by
  intro s k hs hf hsus hk
  have hrun := run_suspended hs hf hsus hk
  refine ⟨hrun, fun hlast => ?_, fun hempty => by simp [hempty]⟩
  have hreached : (s.hpos + (k + 1)) % s.cfg.lineLen = s.cfg.hblankStart := by
    rw [Nat.add_comm k 1, ← Nat.add_assoc, hlast]
  refine (run_succ_of_waited hf hsus hrun).trans (congrArg (α := State) Host.Outcome.next ?_)
  simp only [State.waited, hreached, bne_self_eq_false, clkRatio]

/-! ## The colour lookup -/

/-- Codes that differ in their low bit have one key (R52). -/
theorem colorKey_flip (code : Byte) : (code ^^^ 0x01) &&& 0xFE#8 = code &&& 0xFE#8 := by
  revert code
  decide

/-- An entry of a table without a double key gives its colour. -/
theorem colorLookup_of_mem {c : Config} {code : Byte} {rgb : Rgb} (hc : c.colorTableOk = true)
    (h : (code &&& 0xFE, rgb) ∈ c.colorTable) : colorLookup c code = rgb := by
  have hnodup : (c.colorTable.map Prod.fst).Nodup := by
    simp only [Config.colorTableOk, Bool.and_eq_true, decide_eq_true_eq] at hc
    exact hc.2
  unfold colorLookup
  cases hfind : c.colorTable.find? fun e => e.1 == code &&& 0xFE#8 with
  | none => exact absurd (beq_self_eq_true _) (List.find?_eq_none.mp hfind _ h)
  | some e =>
    have hkey : e.1 = code &&& 0xFE#8 := by simpa using List.find?_some hfind
    rw [List.inj_on_of_nodup_map hnodup (List.mem_of_find?_eq_some hfind) h hkey]

/-- A code whose key the table does not list is black. -/
theorem colorLookup_of_forall_not_mem {c : Config} {code : Byte} (h : ∀ rgb, (code &&& 0xFE, rgb) ∉ c.colorTable) :
    colorLookup c code = 0x000000 := by
  have hfind : (c.colorTable.find? fun e => e.1 == code &&& 0xFE#8) = none := by
    refine List.find?_eq_none.mpr fun e he hkey => h e.2 ?_
    have hkey : e.1 = code &&& 0xFE := beq_iff_eq.mp hkey
    exact hkey ▸ he
  simp only [colorLookup, hfind]

/-- Settles O10: aliasing, a listed entry, a missing entry. -/
theorem colorLookupMasksTheLowBit : Obligations.ColorLookupMasksTheLowBit := by
  intro c code hc
  refine ⟨?_, fun rgb => colorLookup_of_mem hc, colorLookup_of_forall_not_mem⟩
  simp only [colorLookup, colorKey_flip]

end Sys2Proof.Machine
end

section
/-! PROOFS of the family 30_encoding.md: the two tables agree, so `decode` reads exactly what `encode` writes; and which opcode
bytes the decoder's table leaves out. -/

namespace Sys2Proof

/-- A format makes an instruction of its operand bytes (R81): the operand bytes, in address order, are exactly those of the format. -/
inductive Form.Makes : Form → List Byte → Instr → Prop
  | f1 (i : Instr) : Makes (.f1 i) [] i
  | f2 (make : Byte → Instr) (b : Byte) : Makes (.f2 make) [b] (make b)
  | f3 (make : Word → Instr) (w : Word) : Makes (.f3 make) (wordBytes w) (make w)

namespace Machine

variable {op : Byte} {operands bytes rest : List Byte} {form : Form} {i : Instr}

/-! ## The decoder, through its table -/

/-- A format that can be filled from the bytes after the opcode is what the decoder reads (R83). -/
theorem decode_of_makes (hrow : opcodeTable op = some form) (hmakes : form.Makes operands i) :
    decode (op :: operands ++ rest) = .ok (i, rest) := by
  cases hmakes <;> simp [decode, hrow, wordBytes]

/-- Whatever the decoder reads is an opcode of its table and operand bytes that its format fills. -/
theorem makes_of_decode (h : decode bytes = .ok (i, rest)) :
    ∃ op form operands, opcodeTable op = some form ∧ form.Makes operands i ∧ bytes = op :: operands ++ rest := by
  match bytes, h with
  | op :: tail, h =>
    simp only [decode] at h
    rcases hrow : opcodeTable op with _ | (_ | _ | make) <;> rw [hrow] at h
    · cases h
    · cases h
      exact ⟨op, _, [], hrow, .f1 _, rfl⟩
    · match tail, h with
      | b :: _, h =>
        cases h
        exact ⟨op, _, [b], hrow, .f2 _ b, rfl⟩
    · match tail, h with
      | b1 :: b2 :: _, h =>
        cases h
        refine ⟨op, _, _, hrow, .f3 make (wordOf b2 b1), ?_⟩
        simp [wordBytes]

/-- The decoder calls an opcode illegal exactly when its table has no row for it (R85). -/
theorem decode_eq_illegalOpcode_iff : decode (op :: rest) = .error (.illegalOpcode op) ↔ opcodeTable op = none := by
  simp only [decode]
  rcases opcodeTable op with _ | (_ | _ | _)
  · simp
  · simp
  · cases rest <;> simp
  · rcases rest with _ | ⟨_, _ | ⟨_, _⟩⟩ <;> simp

/-! ## The two tables agree -/

/-- Every row of the encoder's table is in the decoder's (R84). -/
theorem opcodeTable_opcode (i : Instr) :
    ∃ form, opcodeTable i.row.opcode = some form ∧ form.Makes i.mode.operandBytes i := by
  cases i <;> exact ⟨_, rfl, by constructor⟩

/-- Every row of the decoder's table is in the encoder's (R84). -/
theorem encode_of_makes (hrow : opcodeTable op = some form) (hmakes : form.Makes operands i) : encode i = op :: operands := by
  -- One case a row; each row's format makes instructions of one constructor, whose own row and mode are compared.
  unfold opcodeTable at hrow
  split at hrow <;> cases hrow <;> cases hmakes <;> rfl

/-- The decoder reads exactly the encodings. -/
theorem decode_eq_ok_iff : decode bytes = .ok (i, rest) ↔ bytes = encode i ++ rest := by
  refine ⟨fun h => ?_, fun h => ?_⟩
  · obtain ⟨op, form, operands, hrow, hmakes, hbytes⟩ := makes_of_decode h
    rw [hbytes, encode_of_makes hrow hmakes]
  · obtain ⟨form, hrow, hmakes⟩ := opcodeTable_opcode i
    rw [h]
    exact decode_of_makes hrow hmakes

/-- Settles O1, by `decode_eq_ok_iff`: an encoding with any bytes after it decodes to its instruction and those bytes. -/
theorem decodeOfEncodeIsIdentity : Obligations.DecodeOfEncodeIsIdentity :=
  fun _ _ _ => decode_eq_ok_iff.mpr rfl

/-- Settles O2, by the other direction of `decode_eq_ok_iff`. -/
theorem decodedBytesAreTheEncoding : Obligations.DecodedBytesAreTheEncoding :=
  fun _ _ _ => decode_eq_ok_iff.mp

/-- Settles O3: an opcode is illegal when the table has no row for it, and the table is compared with the list byte by byte. -/
theorem exactlyTheListedOpcodesAreIllegal : Obligations.ExactlyTheListedOpcodesAreIllegal := by
  intro op rest
  rw [decode_eq_illegalOpcode_iff]
  revert op
  decide

/-- Settles O4: each word is the encoding of its instruction. -/
theorem exampleWordsOfTheSyntaxTableDecode : Obligations.ExampleWordsOfTheSyntaxTableDecode := by
  unfold Obligations.ExampleWordsOfTheSyntaxTableDecode
  simp only [decode_eq_ok_iff]
  decide

end Machine

end Sys2Proof
end

section
/-! PROOFS of the family 40_execution_cycle.md: what a processor tick, a master tick and a step do in each state of the processor, and
that every step counts one master tick. -/

namespace Sys2Proof.Machine

variable {i : Instr} {s t : State} {n : Nat}

/-! ## The processor's tick -/

/-- A suspended tick does nothing (R108). -/
theorem tick_suspended (hf : s.fault = none) (hsus : s.suspended = true) : tick s = .next s := by
  simp [tick, hf, hsus]

/-- A RETIRING tick only counts down (R102). -/
theorem tick_retiring (hf : s.fault = none) (hsus : s.suspended = false) (hrem : s.remaining = n + 1) :
    tick s = .next { s with remaining := n } := by
  simp [tick, hf, hsus, hrem]

/-- A FETCHING tick is the meaning of the instruction at PC (R101, R103). -/
theorem tick_fetching (hs : s.fetching) (hfetch : s.fetch = .ok i) : tick s = exec i s := by
  obtain ⟨hf, hsus, hrem, -⟩ := hs
  simp [tick, hf, hsus, hrem, hfetch]

/-! ## The master tick -/

/-- Between CPU ticks a master tick only counts (R110). -/
theorem advance_of_div_ne_zero (hf : s.fault = none) (hdiv : s.div ≠ 0) : advance s = .next s.count := by
  simp [advance, hf, hdiv]

/-- With a CPU tick due a master tick is the processor's tick, then the counters (R109). -/
theorem advance_of_tick (hf : s.fault = none) (hdiv : s.div = 0) (h : tick s = .next t) : advance s = .next t.count := by
  simp [advance, hf, hdiv, h]

/-- A step is the environment's changes, then a master tick (D22). -/
theorem step_eq_advance (hf : s.fault = none) : step s = advance s.takeInputs := by
  simp [step, masterTick, hf]

/-- The environment does not decide whether the next step executes an instruction. -/
@[simp] theorem takeInputs_fetching : s.takeInputs.fetching ↔ s.fetching := by
  simp [State.fetching]

/-- A step of a FETCHING processor is the environment's changes, the instruction fetched after them, and a count. -/
theorem step_fetching (hs : s.fetching) (hfetch : s.takeInputs.fetch = .ok i) (h : exec i s.takeInputs = .next t) :
    step s = .next t.count := by
  have ⟨hf, _, _, hdiv⟩ := hs
  rw [step_eq_advance hf]
  refine advance_of_tick (by simpa using hf) (by simpa using hdiv) ?_
  rw [tick_fetching (takeInputs_fetching.mpr hs) hfetch, h]

/-- Settles O11: the bytes at PC are what the step fetches, and every instruction answers a next state. -/
theorem stepRunsTheDecodedInstruction : Obligations.StepRunsTheDecodedInstruction := by
  intro s i bytes hs _ hdecode hbytes
  have hfetch : s.takeInputs.fetch = .ok i := fetch_ok hdecode (by simpa using hbytes)
  obtain ⟨t, ht⟩ := exec_next i s.takeInputs
  exact ⟨t, ht, step_fetching hs hfetch ht⟩

/-- A master tick of a RETIRING processor with a CPU tick due counts down by one, then counts. -/
theorem advance_retiring (hf : s.fault = none) (hsus : s.suspended = false) (hrem : s.remaining = n + 1) (hdiv : s.div = 0) :
    advance s = .next ({ s with remaining := n } : State).count :=
  advance_of_tick hf hdiv (tick_retiring hf hsus hrem)

/-- Settles O12: a step is the master tick of the state the environment leaves, which is RETIRING and counts as before. -/
theorem retiringTickOnlyCountsDown : Obligations.RetiringTickOnlyCountsDown := by
  refine ⟨fun s n hf hsus hrem => ⟨tick_retiring hf hsus hrem, fun hdiv => ?_⟩, fun s hf hdiv => ?_⟩
  · refine ⟨advance_retiring hf hsus hrem hdiv, ?_⟩
    rw [step_eq_advance hf]
    exact advance_retiring (by simpa using hf) (by simpa using hsus) (by simpa using hrem) (by simpa using hdiv)
  · refine ⟨advance_of_div_ne_zero hf hdiv, ?_⟩
    rw [step_eq_advance hf]
    exact advance_of_div_ne_zero (by simpa using hf) (by simpa using hdiv)

/-- Settles O13, for the tick and for the step. -/
theorem suspendedTickChangesNothing : Obligations.SuspendedTickChangesNothing :=
  fun _ hf hsus => ⟨tick_suspended hf hsus, step_suspended hf hsus⟩

/-! ## Every step counts -/

/-- A step of a machine not halted ends in one count, of a state that still has the parameters and counters from before the step
and the environment's queue less its first entry: nothing that comes before the count reaches them. -/
theorem step_ends_in_count (hf : s.fault = none) (h : step s = .next t) :
    ∃ u : State, t = u.count ∧ u.cfg = s.cfg ∧ u.div = s.div ∧ u.hpos = s.hpos ∧ u.inputs = s.inputs.tail := by
  rcases step_cases s with ⟨_, hf', -⟩ | ⟨-, -, he⟩ | ⟨-, i, u, -, hu, he⟩ | ⟨-, _, -, he⟩
  · rw [hf] at hf'
    cases hf'
  all_goals rw [h] at he; cases he
  · exact ⟨_, rfl, by simp⟩
  · obtain ⟨hcfg, hdiv, hhpos, hinputs⟩ := exec_constants hu
    exact ⟨u, rfl, by simp [hcfg, hdiv, hhpos, hinputs]⟩
  · exact ⟨_, rfl, by simp⟩

/-- A count that arrives at the start of horizontal blank ends a suspension (R112). -/
theorem count_suspended_of_hblank (h : s.count.hpos = s.count.cfg.hblankStart) : s.count.suspended = false := by
  simp only [State.count_hpos, State.count_cfg] at h
  simp [h]

/-- Settles O16, from the count the step ends in. -/
theorem everyStepCountsOneMasterTick : Obligations.EveryStepCountsOneMasterTick := by
  intro s t hf h
  obtain ⟨u, rfl, hcfg, hdiv, hhpos, hinputs⟩ := step_ends_in_count hf h
  rw [← hcfg, ← hdiv, ← hhpos, ← hinputs]
  exact ⟨rfl, rfl, rfl, rfl, count_suspended_of_hblank⟩

/-- A suspension ends only at the start of horizontal blank (R112). -/
theorem step_resumes_at_hblank (h : step s = .next t) (hsus : s.suspended = true) (hres : t.suspended = false) :
    t.hpos = s.cfg.hblankStart := by
  cases hf : s.fault with
  | some f =>
    rw [step_of_fault hf] at h
    cases h
    rw [hsus] at hres
    cases hres
  | none =>
    rw [step_suspended hf hsus] at h
    cases h
    simpa [hsus] using hres

/-- Settles O20: the resuming step arrives at `HBLANK_START`, a multiple of three, and `div` stays in phase with `hpos`. -/
theorem resumeFallsBetweenCpuCycles : Obligations.ResumeFallsBetweenCpuCycles := by
  intro s t hs hblank h hsus hres
  calc t.div = t.hpos % 3 := (hs.step h).phase
    _ = s.cfg.hblankStart % 3 := by rw [step_resumes_at_hblank h hsus hres]
    _ = 0 := hblank

end Sys2Proof.Machine
end

section
/-! PROOFS of the family 41_addressing_modes.md: `SetZN`, the effective address of every memory mode as a number, the operand and
what reading it costs, and the eight branches. -/

namespace Sys2Proof.Machine

variable {i : Instr} {s : State} {m : MemMode} {zp lo hi v disp : Byte} {w : Word}

/-! ## SetZN -/

/-- Settles O34, flag by flag. -/
theorem setZNWritesTwoFlags : Obligations.SetZNWritesTwoFlags := by
  intro p v
  refine ⟨?_, ?_, fun f hz hn => ?_⟩
  · rw [getFlag_setZN, if_neg (by decide), if_pos rfl, beq_zero_iff]
  · rw [getFlag_setZN, if_pos rfl, msb_iff]
  · rw [getFlag_setZN, if_neg hn, if_neg hz]

/-! ## Direct and indexed modes -/

/-- Zero-page indexing stays in page 0 (R135, R136). -/
theorem zext16_add_toNat (base index : Byte) : (zext16 (base + index)).toNat = (base.toNat + index.toNat) % 256 := by
  rw [zext16_toNat, BitVec.toNat_add]

/-- Settles O38, mode by mode: only an absolute index can cross a page. -/
theorem effectiveAddressesWrapAsStated : Obligations.EffectiveAddressesWrapAsStated := by
  intro s zp w
  refine ⟨?zp, ?zpx, ?zpy, ?abs, ?abx, ?aby⟩
  case zp => exact ⟨_, rfl, zext16_toNat zp, rfl⟩
  case zpx => exact ⟨_, rfl, zext16_add_toNat zp s.x, rfl⟩
  case zpy => exact ⟨_, rfl, zext16_add_toNat zp s.y, rfl⟩
  case abs => exact ⟨_, rfl, rfl, rfl⟩
  case abx => exact ⟨_, rfl, indexedAddr_toNat w s.x, indexedAddr_crossed w s.x⟩
  case aby => exact ⟨_, rfl, indexedAddr_toNat w s.y, indexedAddr_crossed w s.y⟩

/-! ## Pointer modes -/

/-- A word is read from two consecutive addresses, low byte first, whatever page the second is in (R53, D15). -/
theorem memRead16_ofNat {n : Nat} (hlo : s.memRead (BitVec.ofNat 16 n) = .ok lo)
    (hhi : s.memRead (BitVec.ofNat 16 (n + 1)) = .ok hi) : s.memRead16 (BitVec.ofNat 16 n) = .ok (wordOf hi lo) := by
  rw [BitVec.ofNat_add] at hhi
  exact memRead16_ok hlo hhi

/-- A zero-page address as the word of its number. -/
theorem zext16_eq_ofNat (b : Byte) : zext16 b = BitVec.ofNat 16 b.toNat := (BitVec.ofNat_toNat 16 b).symm

/-- (zp,X) is the pointer at the indexed zero-page address (R141). -/
theorem effAddr_izx_ok (h : s.memRead16 (zext16 (zp + s.x)) = .ok w) : s.effAddr (.izx zp) = .ok (plainAddr w) := by
  simp only [State.effAddr, h]
  rfl

/-- (zp),Y is the pointer at the zero-page address, indexed (R142). -/
theorem effAddr_izy_ok (h : s.memRead16 (zext16 zp) = .ok w) : s.effAddr (.izy zp) = .ok (indexedAddr w s.y) := by
  simp only [State.effAddr, h]
  rfl

/-- The low byte decides whether an index crosses the page of a pointer. -/
theorem wordOf_toNat_mod (hi lo : Byte) : (wordOf hi lo).toNat % 256 = lo.toNat := by
  rw [← loByte_toNat, loByte_wordOf]

/-- Settles O39: the pointer is the word of the two bytes. -/
theorem pointersAreTwoConsecutiveBytes : Obligations.PointersAreTwoConsecutiveBytes := by
  intro s zp lo hi
  refine ⟨fun hlo hhi => ?izx, fun hlo hhi => ?izy⟩
  case izx =>
    have hptr : s.memRead16 (zext16 (zp + s.x)) = .ok (wordOf hi lo) := by
      rw [zext16_eq_ofNat, BitVec.toNat_add]
      exact memRead16_ofNat hlo hhi
    exact ⟨_, effAddr_izx_ok hptr, wordOf_toNat hi lo, rfl⟩
  case izy =>
    have hptr : s.memRead16 (zext16 zp) = .ok (wordOf hi lo) := by
      rw [zext16_eq_ofNat]
      exact memRead16_ofNat hlo hhi
    refine ⟨_, effAddr_izy_ok hptr, ?_, ?_⟩
    · rw [indexedAddr_toNat, wordOf_toNat]
    · rw [indexedAddr_crossed, wordOf_toNat_mod]

/-! ## Operands -/

/-- A memory operand is the byte at the effective address, at the page-cross penalty (R147). -/
theorem loadOperand_mem_ok {sens : Bool} {ea : EffAddr} (ha : s.effAddr m = .ok ea) (hr : s.memRead ea.addr = .ok v) :
    s.loadOperand sens (.mem m) = .ok (v, crossPenalty sens ea.crossed) := by
  simp only [State.loadOperand, ha, bind, Except.bind, hr]
  rfl

/-- The penalty is one cycle, of a sensitive opcode whose index crossed a page (R105). -/
theorem crossPenalty_eq_one_iff (sens crossed : Bool) : crossPenalty sens crossed = 1 ↔ sens = true ∧ crossed = true := by
  simp [crossPenalty]

/-- Settles O40; that an operand costs at most one extra cycle is `loadOperand_extra`. -/
theorem operandIsTheByteAtTheEffectiveAddress : Obligations.OperandIsTheByteAtTheEffectiveAddress := by
  refine ⟨fun _ _ _ => rfl, fun s sens m ea v ha hr => ?_⟩
  have hload := loadOperand_mem_ok (sens := sens) ha hr
  obtain ⟨hle, -⟩ := loadOperand_extra hload
  exact ⟨_, hload, hle, crossPenalty_eq_one_iff sens ea.crossed⟩

/-! ## Branches -/

/-- Sign extension keeps the signed number, mod 65536. -/
theorem sext16_toNat (disp : Byte) : ((sext16 disp).toNat : Int) = signed disp % 65536 := by
  have hd := disp.isLt
  simp only [sext16, signed, BitVec.toNat_signExtend, BitVec.toNat_setWidth, BitVec.toInt_eq_msb_cond]
  cases disp.msb
  · simp only [Bool.false_eq_true, if_false]
    omega
  · simp only [if_true]
    omega

/-- The target as a number: the address after the branch plus the signed displacement (R143). -/
theorem branchTarget_toNat (pc0 : Word) (disp : Byte) :
    ((branchTarget pc0 disp).toNat : Int) = ((pc0.toNat : Int) + 2 + signed disp) % 65536 := by
  have hsext := sext16_toNat disp
  have htwo : (2 : Word).toNat = 2 := rfl
  simp only [branchTarget, BitVec.toNat_add, htwo]
  omega

/-- Two addresses are in one page exactly if they have one page number. -/
theorem page_eq_page_iff (a b : Word) : page a = page b ↔ a.toNat / 256 = b.toNat / 256 := by
  rw [page, page, ← BitVec.toNat_inj, hiByte_toNat, hiByte_toNat]

/-- The idle cycles of a taken branch, by the page numbers of its target and its opcode (R106, D16). -/
theorem branch_remaining (pc0 target : Word) :
    2 - 1 + branchPenalty pc0 target = if target.toNat / 256 = pc0.toNat / 256 then 2 else 3 := by
  simp only [branchPenalty, page_eq_page_iff]
  split <;> rfl

/-- The common body on its condition. -/
theorem branchIf_taken {cond : State → Bool} (pc0 : Word) (disp : Byte) (h : cond s = true) :
    branchIf cond pc0 disp s =
      .ok (branchPenalty pc0 (branchTarget pc0 disp)) { s with pc := branchTarget pc0 disp } := by
  simp [branchIf, h]

/-- The common body off its condition. -/
theorem branchIf_not_taken {cond : State → Bool} (pc0 : Word) (disp : Byte) (h : cond s = false) :
    branchIf cond pc0 disp s = .ok 0 s := by
  simp [branchIf, h]

/-- The opcode of each branch, the flag it looks at and the value it branches on (R234 to R241). -/
def branchTable : List (Mnemonic × Byte × Flag × Bool) :=
  [(.bpl, 0x10, .n, false), (.bmi, 0x30, .n, true), (.bvc, 0x50, .v, false), (.bvs, 0x70, .v, true),
    (.bcc, 0x90, .c, false), (.bcs, 0xB0, .c, true), (.bne, 0xD0, .z, false), (.beq, 0xF0, .z, true)]

variable {opcode : Byte} {f : Flag} {b : Bool}

/-- A relative instruction has the opcode of its row in the table, and the common body on the row's flag. -/
theorem branch_row (hm : i.mode = .rel disp) (hrow : (i.mnemonic, opcode, f, b) ∈ branchTable) (pc0 : Word) :
    i.row.opcode = opcode ∧ i.body pc0 = branchIf (fun u => getFlag u.p f == b) pc0 disp := by
  cases i <;> cases hm
  -- The eight branches are left, and the table holds one row for each.
  all_goals
    simp only [branchTable, Instr.mnemonic, Instr.row, List.mem_cons, List.not_mem_nil, Prod.mk.injEq, reduceCtorEq,
      false_and, true_and, or_false, false_or] at hrow
    obtain ⟨rfl, rfl, rfl⟩ := hrow
    simp only [beq_true, beq_false]
    exact ⟨rfl, rfl⟩

/-- A relative instruction is two bytes long. -/
theorem length_of_rel (hm : i.mode = .rel disp) : i.length = 2 := by
  rw [Instr.length, hm]
  rfl

/-- A relative instruction takes two cycles before its penalty (R84). -/
theorem base_of_rel (hm : i.mode = .rel disp) : i.row.base = 2 := by
  obtain ⟨-, -, -, hbase⟩ := row_bounds i
  exact hbase (by rw [hm]; rfl)

/-- A branch whose flag has the other value only moves on (R233). -/
theorem exec_branch_not_taken (hm : i.mode = .rel disp)
    (hbody : i.body s.pc = branchIf (fun u => getFlag u.p f == b) s.pc disp) (h : getFlag s.p f ≠ b) :
    exec i s = .next { s with pc := s.pc + 2, remaining := 1 } := by
  have hrun : i.body s.pc (advanced s i) = .ok 0 (advanced s i) := by
    rw [hbody]
    exact branchIf_not_taken _ _ (beq_false_of_ne h)
  rw [exec_of_body_ok hrun, advanced, length_of_rel hm, base_of_rel hm]
  rfl

/-- A branch whose flag has its value goes to its target, at the cost of the target's page (R233, R106). -/
theorem exec_branch_taken (hm : i.mode = .rel disp)
    (hbody : i.body s.pc = branchIf (fun u => getFlag u.p f == b) s.pc disp) (h : getFlag s.p f = b) :
    exec i s = .next { s with
      pc := branchTarget s.pc disp,
      remaining := if (branchTarget s.pc disp).toNat / 256 = s.pc.toNat / 256 then 2 else 3 } := by
  have hrun : i.body s.pc (advanced s i) = .ok (branchPenalty s.pc (branchTarget s.pc disp))
      { advanced s i with pc := branchTarget s.pc disp } := by
    rw [hbody]
    exact branchIf_taken _ _ (beq_iff_eq.mpr h)
  rw [exec_of_body_ok hrun, base_of_rel hm, branch_remaining]
  rfl

/-- Settles O53, by the branch's row: both outcomes of the common body. -/
theorem branchesFollowTheirFlag : Obligations.BranchesFollowTheirFlag := by
  intro i s disp opcode f v hm hrow
  obtain ⟨hopcode, hbody⟩ := branch_row hm hrow s.pc
  refine ⟨?_, exec_branch_not_taken hm hbody, fun h => ?_⟩
  · rw [encode, hopcode, hm]
    rfl
  · exact ⟨_, branchTarget_toNat s.pc disp, exec_branch_taken hm hbody h⟩

end Sys2Proof.Machine
end

section
/-! PROOFS of the family 42_load_store_transfer.md: the loads, the stores, and the instructions that only write registers. -/

namespace Sys2Proof.Machine

variable {i : Instr} {s : State}

/-- The entry of an instruction does not depend on its operand bytes, so whether a rule lists it is computed (R84). -/
theorem encodedAs_of_contains {entries : List (Byte × ModeTag × Nat × Bool)} (h : entries.contains i.encodingEntry = true) :
    i.encodedAs entries :=
  List.contains_iff_mem.mp h

/-- Settles O41: a load is the read instruction (`exec_read`) that loads its register. -/
theorem loadsSetTheirRegisterAndZN : Obligations.LoadsSetTheirRegisterAndZN := by
  intro i s src m extra hmode hload
  refine ⟨fun hm => ⟨?_, ?lda⟩, fun hm => ⟨?_, ?ldx⟩, fun hm => ⟨?_, ?ldy⟩⟩
  case lda => exact exec_read (fun v u => u.loadA v) hmode hload (by rw [Instr.body, hm]; rfl)
  case ldx => exact exec_read (fun v u => u.loadX v) hmode hload (by rw [Instr.body, hm]; rfl)
  case ldy => exact exec_read (fun v u => u.loadY v) hmode hload (by rw [Instr.body, hm]; rfl)
  -- Each mnemonic leaves one instruction a mode, and its entry is in the rule's list.
  all_goals
    cases i <;> cases hm
    all_goals exact encodedAs_of_contains rfl

/-- Settles O42: a store is the store instruction (`exec_store`) of its register, whose value the advance of PC does not reach. -/
theorem storesWriteTheirRegister : Obligations.StoresWriteTheirRegister := by
  intro i s t mode ea hmode ha
  refine ⟨fun hm hw => ⟨?_, ?sta⟩, fun hm hw => ⟨?_, ?stx⟩, fun hm hw => ⟨?_, ?sty⟩⟩
  case sta => exact exec_store (v := State.a) (fun _ => rfl) hmode ha hw (by rw [Instr.body, hm]; rfl)
  case stx => exact exec_store (v := State.x) (fun _ => rfl) hmode ha hw (by rw [Instr.body, hm]; rfl)
  case sty => exact exec_store (v := State.y) (fun _ => rfl) hmode ha hw (by rw [Instr.body, hm]; rfl)
  -- Each mnemonic leaves one instruction a mode, and its entry is in the rule's list.
  all_goals
    cases i <;> cases hm
    all_goals exact encodedAs_of_contains rfl

/-- An instruction that only writes registers and flags does so after PC has advanced, cannot fault, and takes its base cycles. -/
theorem exec_register (f : State → State) (hbody : i.body s.pc = registerInstr f) :
    exec i s = .next { f (advanced s i) with remaining := i.row.base - 1 } :=
  exec_of_body_ok (extra := 0) (by rw [hbody]; rfl)

/-- Settles O43: what each instruction writes, as its rule says it; the frame is `exec_register`. -/
theorem registerTransfersAndSteps : Obligations.RegisterTransfersAndSteps := by
  intro s done
  refine ⟨?tax, ?tay, ?txa, ?tya, ?tsx, ?txs, ?inx, ?iny, ?dex, ?dey, ?encodings⟩
  case tax => exact exec_register (fun u => u.loadX u.a) rfl
  case tay => exact exec_register (fun u => u.loadY u.a) rfl
  case txa => exact exec_register (fun u => u.loadA u.x) rfl
  case tya => exact exec_register (fun u => u.loadA u.y) rfl
  case tsx => exact exec_register (fun u => u.loadX u.sp) rfl
  case txs => exact exec_register (fun u => { u with sp := u.x }) rfl
  case inx => exact exec_register (fun u => u.loadX (u.x + 1)) rfl
  case iny => exact exec_register (fun u => u.loadY (u.y + 1)) rfl
  case dex => exact exec_register (fun u => u.loadX (u.x - 1)) rfl
  case dey => exact exec_register (fun u => u.loadY (u.y - 1)) rfl
  case encodings => decide

end Sys2Proof.Machine
end

section
/-! PROOFS of the family 43_stack.md: a push and a pull inside their frames, and the status byte that comes back from the stack. -/

namespace Sys2Proof.Machine

variable {i : Instr} {s t : State} {m : Byte} {v : State → Byte} {f : Byte → State → State}

/-! ## The two shapes of a stack instruction -/

/-- The body that PHA and PHP share: one byte pushed (R180, R181). -/
def pushInstr (v : State → Byte) : Op Nat := do
  let s ← getState
  push (v s)
  pure 0

/-- The body that PLA and PLP share: one byte pulled, then registers and flags written from it (R182, R183). -/
def pullInstr (f : Byte → State → State) : Op Nat := do
  let m ← pop
  update (f m)
  pure 0

/-- A push that can be made. -/
theorem pushInstr_ok (h : s.memWrite (stackAddr s.sp) (v s) = .ok t) :
    pushInstr v s = .ok 0 { t with sp := s.sp - 1 } := by
  simp only [pushInstr, bind_run, getState_run, push_ok h, pure_run]

/-- A pull whose byte can be read. -/
theorem pullInstr_ok (h : s.memRead (stackAddr (s.sp + 1)) = .ok m) :
    pullInstr f s = .ok 0 (f m { s with sp := s.sp + 1 }) := by
  simp only [pullInstr, bind_run, pop_ok h, update_run, pure_run]

/-- The result of a push that can be made, of a byte that the advance of PC does not reach. -/
theorem exec_push (hbody : i.body s.pc = pushInstr v) (hv : v (advanced s i) = v s)
    (h : s.memWrite (stackAddr s.sp) (v s) = .ok t) :
    exec i s = .next
      { t with sp := s.sp - 1, pc := s.pc + BitVec.ofNat 16 i.length, remaining := i.row.base - 1 } := by
  have hwrite := memWrite_pc h (s.pc + BitVec.ofNat 16 i.length)
  rw [← hv] at hwrite
  exact exec_of_body_ok (by rw [hbody]; exact pushInstr_ok (s := advanced s i) hwrite)

/-- The result of a pull whose byte can be read. -/
theorem exec_pull (hbody : i.body s.pc = pullInstr f) (h : s.memRead (stackAddr (s.sp + 1)) = .ok m) :
    exec i s = .next { f m { advanced s i with sp := s.sp + 1 } with remaining := i.row.base - 1 } :=
  exec_of_body_ok (by rw [hbody]; exact pullInstr_ok (s := advanced s i) h)

/-! ## The accumulator -/

/-- Settles O44: PHA is the push of A, and PLA is the pull that loads A. -/
theorem accumulatorIsPushedAndPulled : Obligations.AccumulatorIsPushedAndPulled := by
  refine ⟨fun s t h => ⟨rfl, ?pha⟩, fun s m h => ⟨rfl, ?pla⟩⟩
  case pha => exact exec_push (v := State.a) rfl rfl h
  case pla => exact exec_pull (f := fun m u => u.loadA m) rfl h

/-! ## The status register -/

/-- PHP pushes P with both break bits 1 (R181, D17). -/
theorem exec_php (h : s.memWrite (stackAddr s.sp) (forcedBreak s.p) = .ok t) :
    exec .php s = .next { t with sp := s.sp - 1, pc := s.pc + 1, remaining := 2 } :=
  exec_push (v := fun u => forcedBreak u.p) rfl rfl h

/-- PLP pulls the whole of P (R183, D18). -/
theorem exec_plp (h : s.memRead (stackAddr (s.sp + 1)) = .ok m) :
    exec .plp s = .next { s with p := m, sp := s.sp + 1, pc := s.pc + 1, remaining := 3 } :=
  exec_pull (f := fun m u => { u with p := m }) rfl h

/-- Settles O45: the pushed byte is `forcedBreak` of P, and no bus write reaches P itself. -/
theorem statusIsPushedAndPulled : Obligations.StatusIsPushedAndPulled :=
  ⟨fun _ _ h => ⟨rfl, exec_php h, (memWrite_sameProcessor h).p⟩, fun _ _ h => ⟨rfl, exec_plp h⟩⟩

/-- The flags of the byte that PHP pushes. -/
theorem getFlag_forcedBreak (p : Byte) (g : Flag) :
    getFlag (forcedBreak p) g = if g = .bh ∨ g = .bl then true else getFlag p g := by
  cases g <;> simp [getFlag, forcedBreak, Flag.bit]

/-- PLP after PHP puts the byte that was pushed into P, if the byte on the stack is stored. -/
theorem exec_php_plp (hwf : Memory.wf s.mem = true) (hst : s.stored (stackAddr s.sp)) :
    ∃ t u : State, exec .php s = .next t ∧ exec .plp t = .next u ∧ u.sp = s.sp ∧ u.p = forcedBreak s.p ∧ u.a = s.a ∧
      u.fault = s.fault := by
  obtain ⟨t, hwrite⟩ : ∃ t, s.memWrite (stackAddr s.sp) (forcedBreak s.p) = .ok t := ⟨_, memWrite_stored hst _⟩
  have hsame := memWrite_sameProcessor hwrite
  obtain ⟨hread, -, -⟩ := storedByteReadsBack s t _ _ hwf hst hwrite
  have hsp : s.sp - 1 + 1 = s.sp := BitVec.sub_add_cancel s.sp 1
  rw [← hsp] at hread
  exact ⟨_, _, exec_php hwrite, exec_plp ((memRead_congr rfl rfl rfl _).trans hread), hsp, rfl, hsame.a, hsame.fault⟩

/-- Settles O60, flag by flag of the byte that comes back. -/
theorem pushThenPullStatusForcesBreakBits : Obligations.PushThenPullStatusForcesBreakBits := by
  intro s hwf hf hst
  obtain ⟨t, u, hphp, hplp, hsp, hp, ha, hfault⟩ := exec_php_plp hwf hst
  refine ⟨t, u, hphp, hplp, hsp, ?bh, ?bl, fun g hbh hbl => ?others, ha, hfault.trans hf⟩
  all_goals rw [hp, getFlag_forcedBreak]
  case bh => exact if_pos (.inl rfl)
  case bl => exact if_pos (.inr rfl)
  case others => exact if_neg (not_or_intro hbh hbl)

end Sys2Proof.Machine
end

section
/-! PROOFS of the family 44_logic_arithmetic.md: `AddWithCarry` and `Compare` as numbers, and the instructions
that read an operand into A or into the flags. -/

namespace Sys2Proof.Machine

/-! ## AddWithCarry -/

/-- The wide sum mod 256 (R190). -/
theorem adcResult_toNat (a m : Byte) (carry : Bool) : (adcResult a m carry).toNat = adcSum a m carry % 256 :=
  BitVec.toNat_ofNat _ _

/-- The carry out of the wide sum (R190). -/
theorem adcFlags_c (vr : VRule) (p a m : Byte) :
    getFlag (adcFlags vr p a m) .c = true ↔ 255 < adcSum a m (getFlag p .c) := by
  rw [getFlag_adcFlags]
  exact decide_eq_true_iff

/-- The overflow rule of the machine on operands and result (R190). -/
theorem adcFlags_v (vr : VRule) (p a m : Byte) :
    getFlag (adcFlags vr p a m) .v = overflowRule vr a m (adcResult a m (getFlag p .c)) :=
  getFlag_adcFlags vr p a m .v

/-- Z is the result's (R190). -/
theorem adcFlags_z (vr : VRule) (p a m : Byte) :
    getFlag (adcFlags vr p a m) .z = true ↔ (adcResult a m (getFlag p .c)).toNat = 0 := by
  rw [getFlag_adcFlags]
  exact beq_zero_iff _

/-- N is the result's (R190). -/
theorem adcFlags_n (vr : VRule) (p a m : Byte) :
    getFlag (adcFlags vr p a m) .n = true ↔ 128 ≤ (adcResult a m (getFlag p .c)).toNat := by
  rw [getFlag_adcFlags]
  exact msb_iff _

/-- Settles O35, flag by flag. -/
theorem addWithCarryIsBinaryAddition : Obligations.AddWithCarryIsBinaryAddition :=
  fun vr p a m =>
    ⟨adcResult_toNat a m _, adcFlags_c vr p a m, adcFlags_v vr p a m, adcFlags_z vr p a m, adcFlags_n vr p a m,
      fun _ hf => getFlag_adcFlags_of_notMem vr p a m (mt List.mem_reverse.mpr hf)⟩

/-! ## Signed overflow -/

/-- The two signs of a byte: what it is as a number without and with its sign. -/
theorem signed_cases (b : Byte) :
    (b.toNat < 128 ∧ signed b = b.toNat) ∨ (128 ≤ b.toNat ∧ signed b = b.toNat - 256) := by
  have hb : signed b = if 2 * b.toNat < 256 then (b.toNat : Int) else b.toNat - 256 := BitVec.toInt_eq_toNat_cond b
  split at hb
  · exact .inl ⟨by omega, hb⟩
  · exact .inr ⟨by omega, hb⟩

/-- The complement of a byte as a number without sign (R197). -/
theorem complement_toNat (m : Byte) : (m ^^^ 0xFF).toNat = 255 - m.toNat :=
  (congrArg BitVec.toNat (BitVec.xor_allOnes (x := m))).trans BitVec.toNat_not

/-- The complement of a byte as a signed number: to add it and 1 is to subtract the byte (R197, D26). -/
theorem signed_complement (m : Byte) : signed (m ^^^ 0xFF) = -signed m - 1 := by
  have hm := m.isLt
  have hnot := complement_toNat m
  rcases signed_cases m with ⟨_, h⟩ | ⟨_, h⟩ <;> rcases signed_cases (m ^^^ 0xFF) with ⟨_, h'⟩ | ⟨_, h'⟩ <;> omega

/-- One bit 7 is one side of 128. -/
theorem msb_eq_msb_iff (a b : Byte) : a.msb = b.msb ↔ (128 ≤ a.toNat ↔ 128 ≤ b.toNat) := by
  rw [← msb_iff, ← msb_iff, Bool.eq_iff_iff]

/-- The canonical rule on numbers: the operands are on one side of 128 and the result is on the other (D2). -/
theorem overflowRule_canonical (a m r : Byte) :
    overflowRule .canonical a m r = true ↔ (128 ≤ a.toNat ↔ 128 ≤ m.toNat) ∧ ¬(128 ≤ r.toNat ↔ 128 ≤ a.toNat) := by
  simp only [overflowRule, Bool.and_eq_true, beq_iff_eq, bne_iff_ne, ne_eq, msb_eq_msb_iff]

/-- The canonical rule says that the signed sum does not fit in a byte (D2), by the signs of the operands. -/
theorem overflowRule_adcResult (a m : Byte) (carry : Bool) :
    overflowRule .canonical a m (adcResult a m carry) = true ↔
      signed a + signed m + carry.toNat < -128 ∨ 127 < signed a + signed m + carry.toNat := by
  have hcarry := carry.toNat_le
  rw [overflowRule_canonical, adcResult_toNat, adcSum]
  rcases signed_cases a with ⟨_, ha⟩ | ⟨_, ha⟩ <;> rcases signed_cases m with ⟨_, hm⟩ | ⟨_, hm⟩ <;> omega

/-- Settles O36; SBC adds the complement, so its clauses are those of the sum rewritten. -/
theorem canonicalOverflowIsSignedOverflow : Obligations.CanonicalOverflowIsSignedOverflow := by
  intro p a m c add sub
  have hm := m.isLt
  have hnot := complement_toNat m
  have hcarry : c ≤ 1 := Bool.toNat_le _
  refine ⟨?addV, ?subV, ?subC, ?difference⟩
  case addV => rw [adcFlags_v, overflowRule_adcResult]
  case subV =>
    have hdiff : signed a + signed (m ^^^ 0xFF) + c = signed a - signed m - (1 - c) := by
      rw [signed_complement]
      omega
    rw [adcFlags_v, overflowRule_adcResult, hdiff]
  case subC =>
    rw [adcFlags_c, adcSum]
    omega
  case difference =>
    rw [adcResult_toNat, adcSum]
    omega

/-! ## Compare -/

/-- Of two writes of one flag the last counts. -/
theorem setFlag_setFlag (p : Byte) (f : Flag) (b b' : Bool) : setFlag (setFlag p f b) f b' = setFlag p f b' := by
  refine flags_ext fun g => ?_
  by_cases h : g = f
  · rw [h, getFlag_setFlag_self, getFlag_setFlag_self]
  · rw [getFlag_setFlag_ne _ _ h, getFlag_setFlag_ne _ _ h, getFlag_setFlag_ne _ _ h]

/-- `Compare` writes C without reading it (R191). -/
theorem compareFlags_setFlag_c (p r m : Byte) (b : Bool) : compareFlags (setFlag p .c b) r m = compareFlags p r m := by
  rw [compareFlags, setFlag_setFlag, compareFlags]

/-- N of `Compare` as a number: bit 7 of the difference mod 256 (R191). -/
theorem compareFlags_n (p r m : Byte) :
    getFlag (compareFlags p r m) .n = true ↔ 128 ≤ (256 + r.toNat - m.toNat) % 256 := by
  have hm := m.isLt
  have hdiff : (r - m).toNat = (256 + r.toNat - m.toNat) % 256 := by
    rw [BitVec.toNat_sub]
    omega
  rw [getFlag_compareFlags, if_pos rfl, msb_iff, hdiff]

/-- Settles O37, flag by flag. -/
theorem compareIsUnsigned : Obligations.CompareIsUnsigned := by
  intro p r m
  refine ⟨?c, ?z, compareFlags_n p r m, fun f hf => ?others, ?entry⟩
  case c =>
    rw [getFlag_compareFlags]
    exact decide_eq_true_iff
  case z =>
    rw [getFlag_compareFlags, if_neg (by decide), if_pos rfl, beq_iff_eq, BitVec.toNat_inj]
  case others => exact getFlag_compareFlags_of_notMem p r m (mt List.mem_reverse.mpr hf)
  case entry => rw [compareFlags_setFlag_c, compareFlags_setFlag_c]

/-! ## The instructions -/

/-- Settles O46: each is the read instruction (`exec_read`) that its rule states, and the flags of BIT are those of `bitFlags`. -/
theorem logicCombinesTheAccumulator : Obligations.LogicCombinesTheAccumulator := by
  intro i s src m extra hmode hload
  refine ⟨fun hm => ⟨?_, ?ora⟩, fun hm => ⟨?_, ?and⟩, fun hm => ⟨?_, ?eor⟩,
    fun hm => ⟨?_, bitFlags s.p s.a m, ?bit, ?z, ?n, ?v, fun f hf => ?others⟩⟩
  case ora => exact exec_read (fun v u => u.loadA (u.a ||| v)) hmode hload (by rw [Instr.body, hm]; rfl)
  case and => exact exec_read (fun v u => u.loadA (u.a &&& v)) hmode hload (by rw [Instr.body, hm]; rfl)
  case eor => exact exec_read (fun v u => u.loadA (u.a ^^^ v)) hmode hload (by rw [Instr.body, hm]; rfl)
  case bit => exact exec_read (fun v u => { u with p := bitFlags u.p u.a v }) hmode hload (by rw [Instr.body, hm]; rfl)
  case z => rw [getFlag_bitFlags, if_neg (by decide), if_neg (by decide), if_pos rfl, beq_iff_eq]; rfl
  case n => rw [getFlag_bitFlags, if_neg (by decide), if_pos rfl, BitVec.msb_eq_getLsbD_last]
  case v => rw [getFlag_bitFlags, if_pos rfl]
  case others => exact getFlag_bitFlags_of_notMem s.p s.a m (mt List.mem_reverse.mpr hf)
  -- Each mnemonic leaves one instruction a mode, and its entry is in the rule's list.
  all_goals
    cases i <;> cases hm
    all_goals exact encodedAs_of_contains rfl

/-- Settles O47: each is the read instruction (`exec_read`) that adds its operand, or the complement of it. -/
theorem addAndSubtractWithCarry : Obligations.AddAndSubtractWithCarry := by
  intro i s src m extra hmode hload
  refine ⟨fun hm => ⟨?_, ?adc⟩, fun hm => ⟨?_, ?sbc⟩⟩
  case adc => exact exec_read (fun v u => u.addWithCarry v) hmode hload (by rw [Instr.body, hm]; rfl)
  case sbc => exact exec_read (fun v u => u.addWithCarry (v ^^^ 0xFF)) hmode hload (by rw [Instr.body, hm]; rfl)
  -- Each mnemonic leaves one instruction a mode, and its entry is in the rule's list.
  all_goals
    cases i <;> cases hm
    all_goals exact encodedAs_of_contains rfl

/-- Settles O48: each is the read instruction (`exec_read`) that compares its register, which the advance of PC does not reach. -/
theorem comparesOnlyChangeFlags : Obligations.ComparesOnlyChangeFlags := by
  intro i s src m extra hmode hload
  refine ⟨fun hm => ⟨?_, ?cmp⟩, fun hm => ⟨?_, ?cpx⟩, fun hm => ⟨?_, ?cpy⟩⟩
  case cmp => exact exec_read (fun v u => { u with p := compareFlags u.p u.a v }) hmode hload (by rw [Instr.body, hm]; rfl)
  case cpx => exact exec_read (fun v u => { u with p := compareFlags u.p u.x v }) hmode hload (by rw [Instr.body, hm]; rfl)
  case cpy => exact exec_read (fun v u => { u with p := compareFlags u.p u.y v }) hmode hload (by rw [Instr.body, hm]; rfl)
  -- Each mnemonic leaves one instruction a mode, and its entry is in the rule's list.
  all_goals
    cases i <;> cases hm
    all_goals exact encodedAs_of_contains rfl

end Sys2Proof.Machine
end

section
/-! PROOFS of the family 45_incdec_shift.md: the increments and decrements of memory, the shifts and rotates of a byte as numbers, and
the instructions that shift A or memory. -/

namespace Sys2Proof.Machine

variable {i : Instr} {s t : State} {old : Byte}

/-! ## Increments and decrements of memory -/

/-- Settles O49: both are the read-modify-write of memory (`exec_rmw_mem`) that their rule states. -/
theorem memoryIsIncrementedAndDecremented : Obligations.MemoryIsIncrementedAndDecremented := by
  intro i s t m ea old hmode ha hr
  have hdst : i.dst = .mem i.memMode := (dst_eq_mem hmode).trans (congrArg Dst.mem (memMode_eq hmode).symm)
  refine ⟨fun hm hw => ⟨?_, ?inc⟩, fun hm hw => ⟨?_, ?dec⟩⟩
  case inc =>
    exact exec_rmw_mem (f := fun b => b + 1) (fl := fun b u => u.setZN (b + 1)) hmode ha hr hw
      (by rw [Instr.body, hm, hdst]; rfl) fun u hp => by rw [← hp]; rfl
  case dec =>
    exact exec_rmw_mem (f := fun b => b - 1) (fl := fun b u => u.setZN (b - 1)) hmode ha hr hw
      (by rw [Instr.body, hm, hdst]; rfl) fun u hp => by rw [← hp]; rfl
  -- Each mnemonic leaves one instruction a mode, and its entry is in the rule's list.
  all_goals
    cases i <;> cases hm
    all_goals exact encodedAs_of_contains rfl

/-! ## A byte shifted by one bit, as a number -/

/-- Bit 7 of a byte as a number: the carry that leaves to the left (R216, R218). -/
theorem getLsbD_seven_eq_decide (b : Byte) : b.getLsbD 7 = decide (128 ≤ b.toNat) := by
  rw [Bool.eq_iff_iff, decide_eq_true_iff, ← msb_iff, BitVec.msb_eq_getLsbD_last]

/-- Bit 0 of a byte as a number: the carry that leaves to the right (R217, R219). -/
theorem getLsbD_zero_eq_decide (b : Byte) : b.getLsbD 0 = decide (b.toNat % 2 = 1) := Nat.testBit_zero b.toNat

/-- Shift left as a number (R216). -/
theorem aslByte_toNat (old : Byte) : (aslByte old).toNat = old.toNat * 2 % 256 := by
  rw [aslByte, BitVec.toNat_shiftLeft, Nat.shiftLeft_eq]

/-- Shift right as a number (R217). -/
theorem lsrByte_toNat (old : Byte) : (lsrByte old).toNat = old.toNat / 2 := by
  rw [lsrByte, BitVec.toNat_ushiftRight, Nat.shiftRight_eq_div_pow]

/-- Rotate left as a number: the carry enters the bit that the shift left 0 (R218). -/
theorem rolByte_toNat (old : Byte) (c : Bool) : (rolByte old c).toNat = old.toNat * 2 % 256 + c.toNat := by
  have hshift : (old <<< 1).toNat = 2 ^ 1 * (old.toNat % 128) := by
    rw [← aslByte, aslByte_toNat]
    omega
  have hcarry : (if c then 0x01#8 else 0x00#8).toNat = c.toNat := by cases c <;> rfl
  rw [rolByte, BitVec.toNat_or, hshift, hcarry, ← Nat.two_pow_add_eq_or_of_lt c.toNat_lt]
  omega

/-- Rotate right as a number: the carry enters bit 7, which the shift left 0 (R219). -/
theorem rorByte_toNat (old : Byte) (c : Bool) : (rorByte old c).toNat = old.toNat / 2 + c.toNat * 128 := by
  have hshift : (old >>> 1).toNat = old.toNat / 2 := lsrByte_toNat old
  have hcarry : (if c then 0x80#8 else 0x00#8).toNat = 2 ^ 7 * c.toNat := by cases c <;> rfl
  have hlt : old.toNat / 2 < 2 ^ 7 := by have := old.isLt; omega
  rw [rorByte, BitVec.toNat_or, hshift, hcarry, Nat.or_comm, ← Nat.two_pow_add_eq_or_of_lt hlt]
  omega

/-! ## The instructions that shift -/

/-- The instruction replaces its operand by `f` of it, bit `k` of the old byte leaves into C, and Z and N are the new byte's. -/
def ShiftsBy (i : Instr) (s : State) (f : Byte → Byte) (k : Nat) : Prop :=
  i.body s.pc (advanced s i) =
    rmwInstr i.dst f (fun b u => { u with p := shiftFlags u.p (f b) (b.getLsbD k) }) (advanced s i)

namespace ShiftsBy

variable {f : Byte → Byte} {k : Nat}

/-- ASL (R216). -/
theorem asl (hm : i.mnemonic = .asl) : ShiftsBy i s aslByte 7 := by
  rw [ShiftsBy, Instr.body, hm]
  rfl

/-- LSR (R217). -/
theorem lsr (hm : i.mnemonic = .lsr) : ShiftsBy i s lsrByte 0 := by
  rw [ShiftsBy, Instr.body, hm]
  rfl

/-- ROL; the carry rotated in is the one on entry (R218). -/
theorem rol (hm : i.mnemonic = .rol) : ShiftsBy i s (rolByte · (getFlag s.p .c)) 7 := by
  rw [ShiftsBy, Instr.body, hm]
  rfl

/-- ROR; the carry rotated in is the one on entry (R219). -/
theorem ror (hm : i.mnemonic = .ror) : ShiftsBy i s (rorByte · (getFlag s.p .c)) 0 := by
  rw [ShiftsBy, Instr.body, hm]
  rfl

/-- A shift in mode ACC. -/
theorem exec_acc (h : ShiftsBy i s f k) (hmode : i.mode = .acc) :
    exec i s = .next (i.retire s 0 { s with a := f s.a, p := shiftFlags s.p (f s.a) (s.a.getLsbD k) }) :=
  exec_rmw_acc hmode h fun u hp => by rw [hp]

/-- A shift in a memory mode. -/
theorem exec_mem {m : MemMode} {ea : EffAddr} (h : ShiftsBy i s f k) (hmode : i.mode = .mem m) (ha : s.effAddr m = .ok ea)
    (hr : s.memRead ea.addr = .ok old) (hw : s.memWrite ea.addr (f old) = .ok t) :
    exec i s = .next (i.retire s 0 { t with p := shiftFlags s.p (f old) (old.getLsbD k) }) :=
  exec_rmw_mem hmode ha hr hw h fun u hp => by rw [hp]

end ShiftsBy

/-- Settles O50: each mnemonic shifts by a function (`ShiftsBy`) whose value has the new byte's number, so it is the new byte; the flags
are those of `shiftFlags`. -/
theorem shiftsMoveOneBit : Obligations.ShiftsMoveOneBit := by
  intro i s old new out h
  have hshift : ∃ f k, ShiftsBy i s f k ∧ f old = new ∧ old.getLsbD k = out := by
    rcases h with ⟨hm, hnew, rfl⟩ | ⟨hm, hnew, rfl⟩ | ⟨hm, hnew, rfl⟩ | ⟨hm, hnew, rfl⟩
    · exact ⟨_, _, .asl hm, BitVec.eq_of_toNat_eq ((aslByte_toNat old).trans hnew.symm), getLsbD_seven_eq_decide old⟩
    · exact ⟨_, _, .lsr hm, BitVec.eq_of_toNat_eq ((lsrByte_toNat old).trans hnew.symm), getLsbD_zero_eq_decide old⟩
    · exact ⟨_, _, .rol hm, BitVec.eq_of_toNat_eq ((rolByte_toNat old _).trans hnew.symm), getLsbD_seven_eq_decide old⟩
    · exact ⟨_, _, .ror hm, BitVec.eq_of_toNat_eq ((rorByte_toNat old _).trans hnew.symm), getLsbD_zero_eq_decide old⟩
  obtain ⟨f, k, hbody, rfl, rfl⟩ := hshift
  refine ⟨fun hm => ?_, fun hm => ?_, fun hm => ?_, fun hm => ?_, shiftFlags s.p (f old) (old.getLsbD k), ?acc, ?mem, ?c, ?z, ?n,
    fun g hg => ?others⟩
  case acc =>
    rintro hmode rfl
    exact hbody.exec_acc hmode
  case mem => exact fun m ea t => hbody.exec_mem
  case c => rw [getFlag_shiftFlags, if_neg (by decide), if_neg (by decide), if_pos rfl]
  case z => rw [getFlag_shiftFlags, if_neg (by decide), if_pos rfl, beq_zero_iff]
  case n => rw [getFlag_shiftFlags, if_pos rfl, msb_iff]
  case others => exact getFlag_shiftFlags_of_notMem s.p (f old) _ (mt List.mem_reverse.mpr hg)
  -- Each mnemonic leaves one instruction a mode, and its entry is in the rule's list.
  all_goals
    cases i <;> cases hm
    all_goals exact encodedAs_of_contains rfl

end Sys2Proof.Machine
end

section
/-! PROOFS of the family 46_control_flow.md: the jumps, the call and the return inside their frames, and the return address that comes
back from the stack. -/

namespace Sys2Proof.Machine

variable {s t u : State} {lo hi : Byte} {addr ptr w : Word}

/-! ## Jumps -/

/-- JMP indirect goes to the word at its pointer (R230, R140). -/
theorem exec_jmpInd (h : s.memRead16 ptr = .ok w) : exec (.jmpInd ptr) s = .next { s with pc := w, remaining := 4 } := by
  have hrun : opJmpInd ptr (advanced s (.jmpInd ptr)) = .ok 0 { s with pc := w } := by
    have hread : (advanced s (.jmpInd ptr)).memRead16 ptr = .ok w := h
    simp only [opJmpInd, bind_run, readBy_run, hread, update_run, pure_run]
    rfl
  exact exec_of_body_ok (i := .jmpInd ptr) hrun

/-! ## The call and the return -/

/-- A word can be pushed after PC has advanced, since neither write looks at PC. -/
theorem pushWord_advanced (i : Instr) (hhi : s.memWrite (stackAddr s.sp) (hiByte w) = .ok t)
    (hlo : t.memWrite (stackAddr (s.sp - 1)) (loByte w) = .ok u) :
    pushWord w (advanced s i) = .ok () { u with sp := s.sp - 2, pc := s.pc + BitVec.ofNat 16 i.length } :=
  pushWord_ok (s := advanced s i) (memWrite_pc hhi _) (memWrite_pc hlo _)

/-- JSR pushes the address of its last byte and goes to its operand (R231). -/
theorem exec_jsr (hhi : s.memWrite (stackAddr s.sp) (hiByte (s.pc + 2)) = .ok t)
    (hlo : t.memWrite (stackAddr (s.sp - 1)) (loByte (s.pc + 2)) = .ok u) :
    exec (.jsr addr) s = .next { u with sp := s.sp - 2, pc := addr, remaining := 5 } := by
  have hrun : opJsr s.pc addr (advanced s (.jsr addr)) = .ok 0 { u with sp := s.sp - 2, pc := addr } := by
    simp only [opJsr, bind_run, pushWord_advanced _ hhi hlo, update_run, pure_run]
  exact exec_of_body_ok (i := .jsr addr) hrun

/-- RTS goes to the address after the one it pops (R232). -/
theorem exec_rts (hlo : s.memRead (stackAddr (s.sp + 1)) = .ok lo) (hhi : s.memRead (stackAddr (s.sp + 2)) = .ok hi) :
    exec .rts s = .next { s with pc := wordOf hi lo + 1, sp := s.sp + 2, remaining := 5 } := by
  have hrun : opRts (advanced s .rts) = .ok 0 { s with pc := wordOf hi lo + 1, sp := s.sp + 2 } := by
    simp only [opRts, bind_run, popWord_ok (s := advanced s .rts) hlo hhi, update_run, pure_run]
    rfl
  exact exec_of_body_ok (i := .rts) hrun

/-- The address after the popped one, as a number. -/
theorem wordOf_add_one_eq_ofNat (hi lo : Byte) : wordOf hi lo + 1 = BitVec.ofNat 16 (hi.toNat * 256 + lo.toNat + 1) := by
  rw [BitVec.ofNat_add _ 1, ← wordOf_eq_ofNat]
  rfl

/-- Settles O51, instruction by instruction; the words read are the numbers of their bytes. -/
theorem jumpsAndReturnsGoWhereStated : Obligations.JumpsAndReturnsGoWhereStated := by
  refine ⟨fun s addr => ⟨rfl, ?jmpAbs⟩, fun s ptr lo hi hlo hhi => ⟨rfl, ?jmpInd⟩, fun s lo hi hlo hhi => ⟨rfl, ?rts⟩⟩
  case jmpAbs => exact exec_register (fun u => { u with pc := addr }) rfl
  case jmpInd =>
    rw [← wordOf_eq_ofNat]
    exact exec_jmpInd (memRead16_ok hlo hhi)
  case rts =>
    rw [← wordOf_add_one_eq_ofNat]
    exact exec_rts hlo hhi

/-- Settles O52, by `exec_jsr`. -/
theorem callPushesTheAddressOfItsLastByte : Obligations.CallPushesTheAddressOfItsLastByte :=
  fun _ _ _ _ hhi hlo => ⟨rfl, exec_jsr hhi hlo⟩

/-! ## The call and then the return -/

/-- The two bytes of a pushed word read back, if both are stored: they lie at two addresses, also where SP wraps between them. -/
theorem pushedWord_readsBack (w : Word) (hwf : Memory.wf s.mem = true) (hst : s.stored (stackAddr s.sp))
    (hst' : s.stored (stackAddr (s.sp - 1))) :
    ∃ (t : State) (m : Memory), s.memWrite (stackAddr s.sp) (hiByte w) = .ok t ∧
      t.memWrite (stackAddr (s.sp - 1)) (loByte w) = .ok { s with mem := m } ∧
      ({ s with mem := m } : State).memRead (stackAddr (s.sp - 1)) = .ok (loByte w) ∧
      ({ s with mem := m } : State).memRead (stackAddr s.sp) = .ok (hiByte w) := by
  have hhi := memWrite_stored hst (hiByte w)
  have hlo := memWrite_stored (s := { s with mem := Memory.put s.mem (stackAddr s.sp).toNat (hiByte w) }) hst' (loByte w)
  obtain ⟨hreadHi, -, -⟩ := storedByteReadsBack _ _ _ _ hwf hst hhi
  obtain ⟨hreadLo, hkeep, -⟩ := storedByteReadsBack { s with mem := _ } _ _ _ (Memory.put_wf _ _ hwf) hst' hlo
  have hne : stackAddr s.sp ≠ stackAddr (s.sp - 1) := fun h => by
    have hsp := stackAddr_inj h
    bv_omega
  exact ⟨_, _, hhi, hlo, hreadLo, (hkeep _ hne).trans hreadHi⟩

/-- Settles O58: the return pops the address that the call pushed, from the two bytes that read back. -/
theorem callThenReturnComesBack : Obligations.CallThenReturnComesBack := by
  intro s addr hwf hfault hst hst'
  obtain ⟨t, m, hhi, hlo, hreadLo, hreadHi⟩ := pushedWord_readsBack (s.pc + 2) hwf hst hst'
  have hspLo : s.sp - 2 + 1 = s.sp - 1 := by bv_omega
  have hspHi : s.sp - 2 + 2 = s.sp := BitVec.sub_add_cancel s.sp 2
  have hpc : wordOf (hiByte (s.pc + 2)) (loByte (s.pc + 2)) + 1 = s.pc + 3 := by
    rw [wordOf_hiByte_loByte, BitVec.add_assoc]
    rfl
  rw [← hspLo] at hreadLo
  rw [← hspHi] at hreadHi
  exact ⟨_, _, exec_jsr hhi hlo, exec_rts ((memRead_congr rfl rfl rfl _).trans hreadLo) ((memRead_congr rfl rfl rfl _).trans hreadHi),
    hpc, hspHi, rfl, rfl, rfl, rfl, hfault⟩

end Sys2Proof.Machine
end

section
/-! PROOFS of the family 47_flags_system.md: the instructions that write one flag, the software interrupt and the return from it inside
their frames, and the status and the address that come back from the stack. -/

namespace Sys2Proof.Machine

variable {i : Instr} {s t u w : State} {opcode b q lo hi : Byte} {f : Flag} {v : Bool} {pc0 target : Word}

/-! ## The flag instructions -/

/-- The opcode of each flag instruction, its flag and the value it writes (R250 to R256). -/
def flagTable : List (Instr × Byte × Flag × Bool) :=
  [(.clc, 0x18, .c, false), (.sec, 0x38, .c, true), (.cli, 0x58, .i, false), (.sei, 0x78, .i, true), (.cld, 0xD8, .d, false),
    (.sed, 0xF8, .d, true), (.clv, 0xB8, .v, false)]

/-- A flag instruction is encoded, and writes its flag, as its row in the table says. -/
theorem flag_row (hrow : (i, opcode, f, v) ∈ flagTable) (pc0 : Word) :
    encode i = [opcode] ∧ i.length = 1 ∧ i.row.base = 2 ∧ i.body pc0 = registerInstr (fun u => u.putFlag f v) := by
  simp only [flagTable, List.mem_cons, List.not_mem_nil, Prod.mk.injEq, or_false] at hrow
  obtain ⟨rfl, rfl, rfl, rfl⟩ | ⟨rfl, rfl, rfl, rfl⟩ | ⟨rfl, rfl, rfl, rfl⟩ | ⟨rfl, rfl, rfl, rfl⟩ | ⟨rfl, rfl, rfl, rfl⟩ |
    ⟨rfl, rfl, rfl, rfl⟩ | ⟨rfl, rfl, rfl, rfl⟩ := hrow
  all_goals exact ⟨rfl, rfl, rfl, rfl⟩

/-- Settles O54: the flag instruction writes its flag by its row, and the body of NOP is empty. -/
theorem flagInstructionsWriteOneFlag : Obligations.FlagInstructionsWriteOneFlag := by
  refine ⟨fun i s opcode f v hrow => ?flag, fun s => ⟨rfl, exec_of_body_ok (i := .nop) rfl⟩⟩
  case flag =>
    obtain ⟨hencode, hlength, hbase, hbody⟩ := flag_row hrow s.pc
    have hexec := exec_register _ hbody
    rw [advanced, hlength, hbase] at hexec
    exact ⟨hencode, _, hexec, getFlag_setFlag_self s.p f v, fun _ hne => getFlag_setFlag_ne s.p v hne⟩

/-! ## The software interrupt and the return -/

/-- A write does not look at SP. -/
theorem memWrite_sp {addr : Word} (h : s.memWrite addr b = .ok t) (sp : Byte) :
    ({ s with sp := sp } : State).memWrite addr b = .ok { t with sp := sp } :=
  (memWrite_pc_sp h s.pc sp).trans (by rw [← (memWrite_sameProcessor h).pc])

/-- A push from a stack pointer that another push has moved. -/
theorem push_sp_ok {sp : Byte} (h : s.memWrite (stackAddr sp) b = .ok t) :
    push b { s with sp := sp } = .ok () { t with sp := sp - 1 } :=
  push_ok (s := { s with sp := sp }) (t := { t with sp := sp }) (memWrite_sp h sp)

/-- The software interrupt, if its three bytes can be pushed and its vector can be read after that: the status it pushes is P as it
was on entry, since no bus write reaches P (R277). -/
theorem takeSoftwareInterrupt_ok (hhi : s.memWrite (stackAddr s.sp) (hiByte (pc0 + 2)) = .ok t)
    (hlo : t.memWrite (stackAddr (s.sp - 1)) (loByte (pc0 + 2)) = .ok u)
    (hp : u.memWrite (stackAddr (s.sp - 2)) (forcedBreak s.p) = .ok w) (hvec : w.memRead16 interruptVector = .ok target) :
    takeSoftwareInterrupt pc0 s = .ok () { w with p := setFlag s.p .i true, sp := s.sp - 3, pc := target } := by
  have hkeepU : u.p = s.p := (memWrite_sameProcessor hlo).p.trans (memWrite_sameProcessor hhi).p
  have hkeepW : w.p = s.p := (memWrite_sameProcessor hp).p.trans hkeepU
  have hpush : push (forcedBreak u.p) { u with sp := s.sp - 2 } = .ok () { w with sp := s.sp - 3 } := by
    have hsp : s.sp - 2 - 1 = s.sp - 3 := by bv_omega
    rw [← hkeepU] at hp
    rw [← hsp]
    exact push_sp_ok hp
  have hread : (({ w with sp := s.sp - 3 } : State).putFlag .i true).memRead16 interruptVector = .ok target := hvec
  simp only [takeSoftwareInterrupt, bind_run, pushWord_ok hhi hlo, getState_run, hpush, update_run, readBy_run, hread]
  rw [← hkeepW]
  rfl

/-- BRK takes the software interrupt (R258). -/
theorem exec_brk (hhi : s.memWrite (stackAddr s.sp) (hiByte (s.pc + 2)) = .ok t)
    (hlo : t.memWrite (stackAddr (s.sp - 1)) (loByte (s.pc + 2)) = .ok u)
    (hp : u.memWrite (stackAddr (s.sp - 2)) (forcedBreak s.p) = .ok w) (hvec : w.memRead16 interruptVector = .ok target) :
    exec .brk s = .next { w with p := setFlag s.p .i true, sp := s.sp - 3, pc := target, remaining := 6 } := by
  have hrun : opBrk s.pc (advanced s .brk) = .ok 0 { w with p := setFlag s.p .i true, sp := s.sp - 3, pc := target } := by
    have htake := takeSoftwareInterrupt_ok (s := advanced s .brk) (memWrite_pc hhi _) (memWrite_pc hlo _) (memWrite_pc hp _) hvec
    simp only [opBrk, bind_run, htake, pure_run]
    rfl
  exact exec_of_body_ok (i := .brk) hrun

/-- Settles O55, by `exec_brk`; the word at the vector is the number of its two bytes. -/
theorem breakTakesTheSoftwareInterrupt : Obligations.BreakTakesTheSoftwareInterrupt := by
  intro s t u w lo hi hhi hlo hp hvecLo hvecHi
  rw [← wordOf_eq_ofNat, ← setFlag_i_true]
  exact ⟨rfl, exec_brk hhi hlo hp (memRead16_ok hvecLo hvecHi)⟩

/-- The return from the interrupt, if its three bytes can be read (R278). -/
theorem returnFromInterrupt_ok (hq : s.memRead (stackAddr (s.sp + 1)) = .ok q) (hlo : s.memRead (stackAddr (s.sp + 2)) = .ok lo)
    (hhi : s.memRead (stackAddr (s.sp + 3)) = .ok hi) :
    returnFromInterrupt s = .ok () { s with p := q, sp := s.sp + 3, pc := wordOf hi lo } := by
  have hpop : popWord { s with sp := s.sp + 1, p := q } = .ok (wordOf hi lo) { s with sp := s.sp + 3, p := q } := by
    have hspLo : s.sp + 1 + 1 = s.sp + 2 := by bv_omega
    have hspHi : s.sp + 1 + 2 = s.sp + 3 := by bv_omega
    rw [← hspLo] at hlo
    rw [← hspHi] at hhi ⊢
    exact popWord_ok (s := { s with sp := s.sp + 1, p := q }) hlo hhi
  simp only [returnFromInterrupt, bind_run, pop_ok hq, update_run, hpop]

/-- RTI returns from the interrupt (R259). -/
theorem exec_rti (hq : s.memRead (stackAddr (s.sp + 1)) = .ok q) (hlo : s.memRead (stackAddr (s.sp + 2)) = .ok lo)
    (hhi : s.memRead (stackAddr (s.sp + 3)) = .ok hi) :
    exec .rti s = .next { s with p := q, sp := s.sp + 3, pc := wordOf hi lo, remaining := 5 } := by
  have hrun : opRti (advanced s .rti) = .ok 0 { s with p := q, sp := s.sp + 3, pc := wordOf hi lo } := by
    simp only [opRti, bind_run, returnFromInterrupt_ok (s := advanced s .rti) hq hlo hhi, pure_run]
    rfl
  exact exec_of_body_ok (i := .rti) hrun

/-- Settles O56, by `exec_rti`; the word popped is the number of its two bytes. -/
theorem returnFromInterruptRestoresStatusAndPc : Obligations.ReturnFromInterruptRestoresStatusAndPc := by
  intro s q lo hi hq hlo hhi
  rw [← wordOf_eq_ofNat]
  exact ⟨rfl, exec_rti hq hlo hhi⟩

/-! ## The interrupt and then the return -/

/-- A write keeps the store canonical, whatever its bound. -/
theorem memWrite_wf {addr : Word} (h : s.memWrite addr b = .ok t) (hwf : Memory.wf s.mem = true) : Memory.wf t.mem = true := by
  rcases memWrite_cases s addr b with ⟨-, he⟩ | ⟨-, -, he⟩ | ⟨-, -, he⟩ <;> rw [h] at he <;> cases he
  case inl => rwa [periphWrite_mem]
  case inr.inl => exact Memory.put_wf _ _ hwf

/-- A byte pushed after a word reads back with the word, if all three are stored: the third address is another than the word's two, also
where SP wraps between them. -/
theorem pushedWordAndByte_readBack (ret : Word) (b : Byte) (hwf : Memory.wf s.mem = true) (hst : s.stored (stackAddr s.sp))
    (hst' : s.stored (stackAddr (s.sp - 1))) (hst'' : s.stored (stackAddr (s.sp - 2))) :
    ∃ (t u : State) (m : Memory), s.memWrite (stackAddr s.sp) (hiByte ret) = .ok t ∧
      t.memWrite (stackAddr (s.sp - 1)) (loByte ret) = .ok u ∧
      u.memWrite (stackAddr (s.sp - 2)) b = .ok { s with mem := m } ∧
      ({ s with mem := m } : State).memRead (stackAddr (s.sp - 2)) = .ok b ∧
      ({ s with mem := m } : State).memRead (stackAddr (s.sp - 1)) = .ok (loByte ret) ∧
      ({ s with mem := m } : State).memRead (stackAddr s.sp) = .ok (hiByte ret) := by
  obtain ⟨t, m, hhi, hlo, hreadLo, hreadHi⟩ := pushedWord_readsBack ret hwf hst hst'
  have hb := memWrite_stored (s := { s with mem := m }) hst'' b
  obtain ⟨hread, hkeep, -⟩ := storedByteReadsBack _ _ _ _ (memWrite_wf hlo (memWrite_wf hhi hwf)) hst'' hb
  have hneLo : stackAddr (s.sp - 1) ≠ stackAddr (s.sp - 2) := fun h => by
    have hsp := stackAddr_inj h
    bv_omega
  have hneHi : stackAddr s.sp ≠ stackAddr (s.sp - 2) := fun h => by
    have hsp := stackAddr_inj h
    bv_omega
  exact ⟨t, _, _, hhi, hlo, hb, hread, (hkeep _ hneLo).trans hreadLo, (hkeep _ hneHi).trans hreadHi⟩

/-- Settles O59: the return pops the status and the address that the interrupt pushed, from the three bytes that read back. -/
theorem interruptThenReturnComesBack : Obligations.InterruptThenReturnComesBack := by
  intro s hwf hfault hst hst' hst'' hvecLo hvecHi
  obtain ⟨t, u, m, hhi, hlo, hp, hreadP, hreadLo, hreadHi⟩ :=
    pushedWordAndByte_readBack (s.pc + 2) (forcedBreak s.p) hwf hst hst' hst''
  have hvec : ({ s with mem := m } : State).memRead16 interruptVector = .ok _ :=
    memRead16_ok (memRead_stored (s := { s with mem := m }) hvecLo) (memRead_stored (s := { s with mem := m }) hvecHi)
  have hspP : s.sp - 3 + 1 = s.sp - 2 := by bv_omega
  have hspLo : s.sp - 3 + 2 = s.sp - 1 := by bv_omega
  have hspHi : s.sp - 3 + 3 = s.sp := BitVec.sub_add_cancel s.sp 3
  rw [← hspP] at hreadP
  rw [← hspLo] at hreadLo
  rw [← hspHi] at hreadHi
  exact ⟨_, _, exec_brk hhi hlo hp hvec, exec_rti ((memRead_congr rfl rfl rfl _).trans hreadP)
    ((memRead_congr rfl rfl rfl _).trans hreadLo) ((memRead_congr rfl rfl rfl _).trans hreadHi),
    wordOf_hiByte_loByte _, hspHi, rfl, rfl, rfl, rfl, hfault⟩

end Sys2Proof.Machine
end

section
/-! PROOFS of the families 60_exceptions.md and 70_reset_and_hazards.md, and that the machine is total: the faults of a fetch, the
faults inside an instruction and what each leaves, the halted machine, the reset vector, the image load. -/

namespace Sys2Proof.Machine

variable {i : Instr} {s t u w : State} {f : Fault} {m : MemMode} {lo : Byte} {addr pc0 : Word}

/-! ## Faults of the fetch -/

/-- An opcode byte that lies nowhere ends the fetch (R276). -/
theorem fetch_opcode_error (hop : s.memRead s.pc = .error f) : s.fetch = .error f := by
  simp only [State.fetch, hop]
  rfl

/-- An opcode without a row ends the fetch before any operand byte is read (R271). -/
theorem fetch_illegal {op : Byte} (hop : s.memRead s.pc = .ok op) (hrow : opcodeTable op = none) :
    s.fetch = .error (.decodeError op s.pc) := by
  simp only [State.fetch, hop, bind, Except.bind, hrow]

/-- The row of an opcode has a format with one operand byte fewer than the instruction has bytes. -/
theorem opcodeTable_opcode_length (i : Instr) :
    ∃ form operands, opcodeTable i.row.opcode = some form ∧ form.Makes operands i ∧ operands.length + 1 = i.length := by
  obtain ⟨form, hrow, hmakes⟩ := opcodeTable_opcode i
  exact ⟨form, _, hrow, hmakes, Laws.EncodedLength.operandBytes_length i.mode⟩

/-- A first operand byte that lies nowhere ends the fetch of an instruction that has one (R276). -/
theorem fetch_operand1_error (hop : s.memRead s.pc = .ok i.row.opcode) (hlen : 2 ≤ i.length)
    (hop1 : s.memRead (s.pc + 1) = .error f) : s.fetch = .error f := by
  obtain ⟨form, operands, hrow, hmakes, hbytes⟩ := opcodeTable_opcode_length i
  simp only [State.fetch, hop, bind, Except.bind, hrow]
  cases hmakes with
  | f1 => simp [← hbytes] at hlen
  | f2 | f3 => simp only [hop1]

/-- A second operand byte that lies nowhere ends the fetch of an instruction that has one (R276). -/
theorem fetch_operand2_error {op1 : Byte} (hop : s.memRead s.pc = .ok i.row.opcode) (hlen : i.length = 3)
    (hop1 : s.memRead (s.pc + 1) = .ok op1) (hop2 : s.memRead (s.pc + 2) = .error f) : s.fetch = .error f := by
  obtain ⟨form, operands, hrow, hmakes, hbytes⟩ := opcodeTable_opcode_length i
  simp only [State.fetch, hop, bind, Except.bind, hrow]
  cases hmakes with
  | f1 | f2 => simp [hlen] at hbytes
  | f3 => simp only [hop1, hop2]

/-- A tick whose fetch ends in a fault latches it and does nothing else (R271, R272). -/
theorem tick_fetch_error (hs : s.fetching) (hfetch : s.fetch = .error f) : tick s = .next { s with fault := some f } := by
  obtain ⟨hf, hsus, hrem, -⟩ := hs
  simp [tick, hf, hsus, hrem, hfetch]

/-- A step whose fetch ends in a fault is the environment's changes, the latch and a count (D12). -/
theorem step_fetch_error (hs : s.fetching) (hfetch : s.takeInputs.fetch = .error f) :
    step s = .next ({ s.takeInputs with fault := some f } : State).count := by
  have ⟨hf, _, _, hdiv⟩ := hs
  rw [step_eq_advance hf]
  exact advance_of_tick (by simpa using hf) (by simpa using hdiv) (tick_fetch_error (takeInputs_fetching.mpr hs) hfetch)

/-- Settles O15: each of the four faults ends the fetch, and the step latches it; a failed read says its own address. -/
theorem fetchFaultsAreLatchedPrecisely : Obligations.FetchFaultsAreLatchedPrecisely := by
  intro s hs
  have hpc : s.takeInputs.pc = s.pc := State.takeInputs_pc s
  rw [← hpc]
  refine ⟨fun f hop => ?opcode, fun op hop hrow => ?illegal, fun i f hop hlen hop1 => ?operand1,
    fun i op1 f hop hlen hop1 hop2 => ?operand2⟩
  case opcode => exact memRead_error hop ▸ step_fetch_error hs (fetch_opcode_error hop)
  case illegal => exact step_fetch_error hs (fetch_illegal hop hrow)
  case operand1 => exact memRead_error hop1 ▸ step_fetch_error hs (fetch_operand1_error hop hlen hop1)
  case operand2 => exact memRead_error hop2 ▸ step_fetch_error hs (fetch_operand2_error hop hlen hop1 hop2)

/-! ## Faults inside an instruction -/

/-- Settles O33: an instruction that latches a fault latches an access out of bounds and keeps the cycle count. -/
theorem instructionFaultsAreBoundsErrors : Obligations.InstructionFaultsAreBoundsErrors := by
  intro i s t f hs h hf
  have hchanged : t.fault ≠ s.fault := by
    rw [hs, hf]
    exact Option.some_ne_none f
  obtain ⟨hrem, -⟩ := (exec_remaining h).resolve_left fun ⟨_, _, _, _, _, _, hkeep⟩ => hchanged hkeep
  obtain ⟨g, hg, addr, rfl, hout, hle⟩ := (exec_fault h).resolve_left hchanged
  cases hf.symm.trans hg
  exact ⟨hrem, addr, rfl, fun ⟨_, hlt⟩ => Nat.not_lt.mpr hle hlt, hout⟩

/-! ## What a faulting access leaves: the first access -/

/-- The outcome of an instruction whose first access lies nowhere: PC has advanced, the fault is latched, nothing else has changed
(R272). -/
def stoppedBy (f : Fault) (i : Instr) (s : State) : Host.Outcome State Fault Refusal :=
  .next { s with pc := s.pc + BitVec.ofNat 16 i.length, fault := some f }

/-- An instruction whose body ends in a fault where it began is stopped by it. -/
theorem exec_stopped (h : i.body s.pc (advanced s i) = .error f (advanced s i)) : exec i s = stoppedBy f i s :=
  exec_of_body_error h

/-- The instructions that read one operand byte (R147). -/
def readMnemonics : List Mnemonic := [.lda, .ldx, .ldy, .ora, .and, .eor, .bit, .adc, .sbc, .cmp, .cpx, .cpy]

/-- The stores (R148). -/
def storeMnemonics : List Mnemonic := [.sta, .stx, .sty]

/-- The read-modify-writes (R149). -/
def rmwMnemonics : List Mnemonic := [.inc, .dec, .asl, .lsr, .rol, .ror]

theorem body_read (hm : i.mnemonic ∈ readMnemonics) (pc0 : Word) :
    ∃ g, i.body pc0 = readInstr i.src i.row.sensitive g := by
  unfold Instr.body
  cases h : i.mnemonic <;> rw [h] at hm
  case lda | ldx | ldy | ora | and | eor | bit | adc | sbc | cmp | cpx | cpy => exact ⟨_, rfl⟩
  all_goals exact absurd hm (by decide)

theorem body_store (hm : i.mnemonic ∈ storeMnemonics) (pc0 : Word) : ∃ g, i.body pc0 = storeInstr i.memMode g := by
  unfold Instr.body
  cases h : i.mnemonic <;> rw [h] at hm
  case sta | stx | sty => exact ⟨_, rfl⟩
  all_goals exact absurd hm (by decide)

/-- The rotates read the carry of the state they begin in, so what replaces the byte depends on that state. -/
theorem body_rmw_mem (hmode : i.mode = .mem m) (hm : i.mnemonic ∈ rmwMnemonics) (pc0 : Word) (s : State) :
    ∃ g flags, i.body pc0 s = rmwInstr (.mem m) g flags s := by
  rw [← dst_eq_mem hmode]
  unfold Instr.body
  cases h : i.mnemonic <;> rw [h] at hm
  case inc | dec =>
    rw [dst_eq_mem hmode, memMode_eq hmode]
    exact ⟨_, _, rfl⟩
  case asl | lsr | rol | ror => exact ⟨_, _, rfl⟩
  all_goals exact absurd hm (by decide)

/-- A read instruction whose operand cannot be read stops there. -/
theorem exec_read_error {src : Src} (hmode : i.mode = src.mode) (hm : i.mnemonic ∈ readMnemonics)
    (hload : s.loadOperand i.row.sensitive src = .error f) : exec i s = stoppedBy f i s := by
  obtain ⟨g, hbody⟩ := body_read hm s.pc
  refine exec_stopped ?_
  rw [hbody, src_eq hmode]
  exact readInstr_error hload

/-- A store or a read-modify-write whose pointer cannot be read stops there. -/
theorem exec_pointer_error (hmode : i.mode = .mem m) (hm : i.mnemonic ∈ storeMnemonics ++ rmwMnemonics)
    (ha : s.effAddr m = .error f) : exec i s = stoppedBy f i s := by
  have ha' : (advanced s i).effAddr m = .error f := (effAddr_congr rfl rfl rfl rfl rfl m).trans ha
  refine exec_stopped ?_
  rcases List.mem_append.mp hm with hstore | hrmw
  · obtain ⟨g, hbody⟩ := body_store hstore s.pc
    rw [hbody, memMode_eq hmode]
    exact storeInstr_pointer_error ha'
  · obtain ⟨g, flags, hbody⟩ := body_rmw_mem hmode hrmw s.pc (advanced s i)
    rw [hbody]
    exact rmwInstr_pointer_error ha'

/-- A read-modify-write whose byte cannot be read stops there. -/
theorem exec_rmw_read_error {ea : EffAddr} (hmode : i.mode = .mem m) (hm : i.mnemonic ∈ rmwMnemonics)
    (ha : s.effAddr m = .ok ea) (hr : s.memRead ea.addr = .error f) : exec i s = stoppedBy f i s := by
  obtain ⟨g, flags, hbody⟩ := body_rmw_mem hmode hm s.pc (advanced s i)
  refine exec_stopped ?_
  rw [hbody]
  exact rmwInstr_read_error ((effAddr_congr rfl rfl rfl rfl rfl m).trans ha) hr

/-- A store that lies nowhere stops there. -/
theorem exec_store_write_error {ea : EffAddr} (hmode : i.mode = .mem m) (hm : i.mnemonic ∈ storeMnemonics)
    (ha : s.effAddr m = .ok ea) (hw : ∀ v, s.memWrite ea.addr v = .error f) : exec i s = stoppedBy f i s := by
  obtain ⟨g, hbody⟩ := body_store hm s.pc
  refine exec_stopped ?_
  rw [hbody, memMode_eq hmode]
  exact storeInstr_write_error ((effAddr_congr rfl rfl rfl rfl rfl m).trans ha)
    (memWrite_error_congr (hw (g (advanced s i))) rfl)

/-- A body that begins with a push stops at a stack address that lies nowhere. -/
theorem body_push_error (hm : i.mnemonic ∈ [.pha, .php, .jsr, .brk]) (pc0 : Word)
    (hw : ∀ v, s.memWrite (stackAddr s.sp) v = .error f) : i.body pc0 s = .error f s := by
  unfold Instr.body
  cases h : i.mnemonic <;> rw [h] at hm
  case pha => simp only [opPha, bind_run, getState_run, push_error (hw _)]
  case php => simp only [opPhp, bind_run, getState_run, push_error (hw _)]
  case jsr => simp only [opJsr, bind_run, pushWord_error_hi (hw _)]
  case brk => simp only [opBrk, takeSoftwareInterrupt, bind_run, pushWord_error_hi (hw _)]
  all_goals exact absurd hm (by decide)

/-- A body that begins with a pull stops at a stack address that lies nowhere, with SP incremented (R145). -/
theorem body_pop_error (hm : i.mnemonic ∈ [.pla, .plp, .rts, .rti]) (pc0 : Word)
    (hr : s.memRead (stackAddr (s.sp + 1)) = .error f) : i.body pc0 s = .error f { s with sp := s.sp + 1 } := by
  unfold Instr.body
  cases h : i.mnemonic <;> rw [h] at hm
  case pla => simp only [opPla, bind_run, pop_error hr]
  case plp => simp only [opPlp, bind_run, pop_error hr]
  case rts => simp only [opRts, bind_run, popWord_error_lo hr]
  case rti => simp only [opRti, returnFromInterrupt, bind_run, pop_error hr]
  all_goals exact absurd hm (by decide)

/-! ## What a faulting access leaves: the jumps, the call and the return -/

/-- JMP indirect is the one instruction in mode IND (R140). -/
theorem eq_jmpInd_of_mode {ptr : Word} (hmode : i.mode = .ind ptr) : i = .jmpInd ptr := by
  cases i <;> cases hmode
  rfl

/-- JMP indirect stops where its pointer cannot be read. -/
theorem exec_ind_error {ptr : Word} (hmode : i.mode = .ind ptr) (h : s.memRead16 ptr = .error f) :
    exec i s = stoppedBy f i s := by
  cases eq_jmpInd_of_mode hmode
  have hrun : opJmpInd ptr (advanced s (.jmpInd ptr)) = .error f (advanced s (.jmpInd ptr)) := by
    have hread : (advanced s (.jmpInd ptr)).memRead16 ptr = .error f := h
    simp only [opJmpInd, bind_run, readBy_run, hread]
  exact exec_stopped (i := .jmpInd ptr) hrun

/-- JSR keeps the high byte it has pushed when the low byte cannot be. -/
theorem exec_jsr_error_lo (hhi : s.memWrite (stackAddr s.sp) (hiByte (s.pc + 2)) = .ok t)
    (hlo : t.memWrite (stackAddr (s.sp - 1)) (loByte (s.pc + 2)) = .error f) :
    exec (.jsr addr) s = .next { t with sp := s.sp - 1, pc := s.pc + 3, fault := some f } := by
  have hpush := pushWord_error_lo (s := advanced s (.jsr addr)) (memWrite_pc hhi _) (memWrite_error_congr hlo rfl)
  have hrun : opJsr s.pc addr (advanced s (.jsr addr)) = .error f { t with sp := s.sp - 1, pc := s.pc + 3 } := by
    simp only [opJsr, bind_run, hpush]
    rfl
  exact exec_of_body_error (i := .jsr addr) hrun

/-- RTS has raised SP twice when its second byte cannot be read. -/
theorem exec_rts_error_hi (hlo : s.memRead (stackAddr (s.sp + 1)) = .ok lo)
    (hhi : s.memRead (stackAddr (s.sp + 2)) = .error f) :
    exec .rts s = .next { s with sp := s.sp + 2, pc := s.pc + 1, fault := some f } := by
  have hpop := popWord_error_hi (s := advanced s .rts) hlo hhi
  have hrun : opRts (advanced s .rts) = .error f { s with sp := s.sp + 2, pc := s.pc + 1 } := by
    simp only [opRts, bind_run, hpop]
    rfl
  exact exec_of_body_error (i := .rts) hrun

/-! ## What a faulting access leaves: the software interrupt and its return -/

/-- BRK ends where taking the software interrupt ends. -/
theorem exec_brk_error (h : takeSoftwareInterrupt s.pc (advanced s .brk) = .error f t) :
    exec .brk s = .next { t with fault := some f } := by
  have hrun : opBrk s.pc (advanced s .brk) = .error f t := by simp only [opBrk, bind_run, h]
  exact exec_of_body_error (i := .brk) hrun

/-- RTI ends where the return from the interrupt ends. -/
theorem exec_rti_error (h : returnFromInterrupt (advanced s .rti) = .error f t) :
    exec .rti s = .next { t with fault := some f } := by
  have hrun : opRti (advanced s .rti) = .error f t := by simp only [opRti, bind_run, h]
  exact exec_of_body_error (i := .rti) hrun

/-- The software interrupt keeps the high byte of the address when the low byte cannot be pushed. -/
theorem takeSoftwareInterrupt_error_lo (hhi : s.memWrite (stackAddr s.sp) (hiByte (pc0 + 2)) = .ok t)
    (hlo : t.memWrite (stackAddr (s.sp - 1)) (loByte (pc0 + 2)) = .error f) :
    takeSoftwareInterrupt pc0 s = .error f { t with sp := s.sp - 1 } := by
  simp only [takeSoftwareInterrupt, bind_run, pushWord_error_lo hhi hlo]

/-- The software interrupt keeps the address it has pushed when the status cannot be. -/
theorem takeSoftwareInterrupt_error_status (hhi : s.memWrite (stackAddr s.sp) (hiByte (pc0 + 2)) = .ok t)
    (hlo : t.memWrite (stackAddr (s.sp - 1)) (loByte (pc0 + 2)) = .ok u)
    (hp : u.memWrite (stackAddr (s.sp - 2)) (forcedBreak s.p) = .error f) :
    takeSoftwareInterrupt pc0 s = .error f { u with sp := s.sp - 2 } := by
  have hpush : push (forcedBreak u.p) { u with sp := s.sp - 2 } = .error f { u with sp := s.sp - 2 } :=
    push_error (memWrite_error_congr hp rfl)
  simp only [takeSoftwareInterrupt, bind_run, pushWord_ok hhi hlo, getState_run, hpush]

/-- The software interrupt has pushed its three bytes and set I when its vector cannot be read (R277). -/
theorem takeSoftwareInterrupt_error_vector (hhi : s.memWrite (stackAddr s.sp) (hiByte (pc0 + 2)) = .ok t)
    (hlo : t.memWrite (stackAddr (s.sp - 1)) (loByte (pc0 + 2)) = .ok u)
    (hp : u.memWrite (stackAddr (s.sp - 2)) (forcedBreak s.p) = .ok w) (hvec : w.memRead16 interruptVector = .error f) :
    takeSoftwareInterrupt pc0 s = .error f { w with p := setFlag s.p .i true, sp := s.sp - 3 } := by
  have hkeepU : u.p = s.p := (memWrite_sameProcessor hlo).p.trans (memWrite_sameProcessor hhi).p
  have hkeepW : w.p = s.p := (memWrite_sameProcessor hp).p.trans hkeepU
  have hpush : push (forcedBreak u.p) { u with sp := s.sp - 2 } = .ok () { w with sp := s.sp - 3 } := by
    have hsp : s.sp - 2 - 1 = s.sp - 3 := by bv_omega
    rw [← hkeepU] at hp
    rw [← hsp]
    exact push_sp_ok hp
  have hread : (({ w with sp := s.sp - 3 } : State).putFlag .i true).memRead16 interruptVector = .error f := hvec
  simp only [takeSoftwareInterrupt, bind_run, pushWord_ok hhi hlo, getState_run, hpush, update_run, readBy_run, hread]
  rw [← hkeepW]
  rfl

/-- BRK at a vector that cannot be read. -/
theorem exec_brk_error_vector (hhi : s.memWrite (stackAddr s.sp) (hiByte (s.pc + 2)) = .ok t)
    (hlo : t.memWrite (stackAddr (s.sp - 1)) (loByte (s.pc + 2)) = .ok u)
    (hp : u.memWrite (stackAddr (s.sp - 2)) (forcedBreak s.p) = .ok w) (hvec : w.memRead16 interruptVector = .error f) :
    exec .brk s = .next { w with p := s.p ||| 0x04, sp := s.sp - 3, pc := s.pc + 1, fault := some f } :=
  exec_brk_error (takeSoftwareInterrupt_error_vector (s := advanced s .brk) (memWrite_pc hhi _) (memWrite_pc hlo _)
    (memWrite_pc hp _) hvec)

/-- The return from the interrupt has loaded P and raised SP twice when the low byte of PC cannot be read. -/
theorem returnFromInterrupt_error_lo {q : Byte} (hq : s.memRead (stackAddr (s.sp + 1)) = .ok q)
    (hlo : s.memRead (stackAddr (s.sp + 2)) = .error f) :
    returnFromInterrupt s = .error f { s with p := q, sp := s.sp + 2 } := by
  have hsp : s.sp + 1 + 1 = s.sp + 2 := by bv_omega
  have hpop : popWord { s with sp := s.sp + 1, p := q } = .error f { s with sp := s.sp + 2, p := q } := by
    rw [← hsp] at hlo ⊢
    exact popWord_error_lo (s := { s with sp := s.sp + 1, p := q }) hlo
  simp only [returnFromInterrupt, bind_run, pop_ok hq, update_run, hpop]

/-- The return from the interrupt has loaded P and raised SP three times when the high byte of PC cannot be read. -/
theorem returnFromInterrupt_error_hi {q : Byte} (hq : s.memRead (stackAddr (s.sp + 1)) = .ok q)
    (hlo : s.memRead (stackAddr (s.sp + 2)) = .ok lo) (hhi : s.memRead (stackAddr (s.sp + 3)) = .error f) :
    returnFromInterrupt s = .error f { s with p := q, sp := s.sp + 3 } := by
  have hspLo : s.sp + 1 + 1 = s.sp + 2 := by bv_omega
  have hspHi : s.sp + 1 + 2 = s.sp + 3 := by bv_omega
  have hpop : popWord { s with sp := s.sp + 1, p := q } = .error f { s with sp := s.sp + 3, p := q } := by
    rw [← hspLo] at hlo
    rw [← hspHi] at hhi ⊢
    exact popWord_error_hi (s := { s with sp := s.sp + 1, p := q }) hlo hhi
  simp only [returnFromInterrupt, bind_run, pop_ok hq, update_run, hpop]

/-- Settles O57, access by access. -/
theorem faultingAccessStopsTheInstruction : Obligations.FaultingAccessStopsTheInstruction := by
  intro i s f stopped
  refine ⟨fun src hmode hm hload => ?read, fun m hmode hm ha => ?pointer,
    fun m ea hmode ha => ⟨fun hm hr => ?rmw, fun hm hw => ?store⟩, fun hm hw => ?push, fun hm hr => ?pull,
    fun ptr hmode hr => ?indLo, fun ptr lo hmode hlo hhi => ?indHi, fun addr t hhi hlo => ?jsr,
    fun t hhi => ⟨fun hlo => ?brkLo, fun u hlo => ⟨fun hp => ?brkStatus, fun w hp hvec => ?brkVector⟩⟩,
    fun lo hlo hhi => ?rts, fun q hq => ⟨fun hlo => ?rtiLo, fun lo hlo hhi => ?rtiHi⟩⟩
  case read => exact exec_read_error hmode hm hload
  case pointer => exact exec_pointer_error hmode hm ha
  case rmw => exact exec_rmw_read_error hmode hm ha hr
  case store => exact exec_store_write_error hmode hm ha hw
  case push => exact exec_stopped (body_push_error hm s.pc fun v => memWrite_error_congr (hw v) rfl)
  case pull => exact exec_of_body_error (body_pop_error (s := advanced s i) hm s.pc hr)
  case indLo => exact exec_ind_error hmode (memRead16_error_lo hr)
  case indHi => exact exec_ind_error hmode (memRead16_error_hi hlo hhi)
  case jsr => exact exec_jsr_error_lo hhi hlo
  case brkLo =>
    exact exec_brk_error (takeSoftwareInterrupt_error_lo (s := advanced s .brk) (memWrite_pc hhi _)
      (memWrite_error_congr hlo rfl))
  case brkStatus =>
    exact exec_brk_error (takeSoftwareInterrupt_error_status (s := advanced s .brk) (memWrite_pc hhi _) (memWrite_pc hlo _)
      (memWrite_error_congr hp rfl))
  case brkVector =>
    rcases hvec with hvecLo | ⟨⟨_, hvecLo⟩, hvecHi⟩
    · exact exec_brk_error_vector hhi hlo hp (memRead16_error_lo hvecLo)
    · exact exec_brk_error_vector hhi hlo hp (memRead16_error_hi hvecLo hvecHi)
  case rts => exact exec_rts_error_hi hlo hhi
  case rtiLo => exact exec_rti_error (returnFromInterrupt_error_lo (s := advanced s .rti) hq hlo)
  case rtiHi => exact exec_rti_error (returnFromInterrupt_error_hi (s := advanced s .rti) hq hlo hhi)

/-! ## The halted machine -/

theorem tick_of_fault (hf : s.fault = some f) : tick s = .next s := by
  simp only [tick, hf, Option.isSome_some, if_true]

theorem advance_of_fault (hf : s.fault = some f) : advance s = .next s := by
  simp only [advance, hf, Option.isSome_some, if_true]

/-- Settles O14, for the tick, the master tick and the step: each tests the latch first. -/
theorem haltedMachineNeverMoves : Obligations.HaltedMachineNeverMoves :=
  fun _ _ hf => ⟨tick_of_fault hf, advance_of_fault hf, step_of_fault hf⟩

/-! ## The reset vector -/

/-- A fixed start address is PC at reset, and nothing is read (R301). -/
theorem hostReset_start {start : Word} (h : s.cfg.startPc = some start) :
    s.hostReset.pc = start ∧ s.hostReset.fault = none := by
  simp only [State.hostReset, h, and_self]

/-- The word at the vector is PC at reset. -/
theorem hostReset_vector {start : Word} (h : s.cfg.startPc = none) (hvec : s.memRead16 resetVector = .ok start) :
    s.hostReset.pc = start ∧ s.hostReset.fault = none := by
  unfold State.hostReset
  rw [h]
  dsimp only
  split <;> rename_i hread <;> cases hvec.symm.trans hread
  exact ⟨rfl, rfl⟩

/-- A vector that cannot be read starts the machine halted. -/
theorem hostReset_vector_error (h : s.cfg.startPc = none) (hvec : s.memRead16 resetVector = .error f) :
    s.hostReset.fault = some f := by
  unfold State.hostReset
  rw [h]
  dsimp only
  split <;> rename_i hread <;> cases hvec.symm.trans hread
  rfl

/-- Settles O7, by the three ways reset finds PC; a failed read says its own address. -/
theorem resetVectorGivesThePc : Obligations.ResetVectorGivesThePc := by
  intro s
  refine ⟨fun start => hostReset_start,
    fun hnone => ⟨fun lo hi hlo hhi => ?word, fun f hlo => ?low, fun lo f hlo hhi => ?high⟩⟩
  case word =>
    obtain ⟨hpc, hfault⟩ := hostReset_vector hnone (memRead16_ok hlo hhi)
    exact ⟨by rw [hpc, wordOf_toNat], hfault⟩
  case low => exact memRead_error hlo ▸ hostReset_vector_error hnone (memRead16_error_lo hlo)
  case high => exact memRead_error hhi ▸ hostReset_vector_error hnone (memRead16_error_hi hlo hhi)

/-! ## The image load -/

/-- Bytes loaded leave every address outside them alone. -/
theorem Memory.get_load_other (image : List Byte) {m : Memory} {start n : Nat} (h : n < start ∨ start + image.length ≤ n) :
    Memory.get (Memory.load m start image) n = Memory.get m n := by
  induction image generalizing m start with
  | nil => rfl
  | cons b rest ih =>
    rw [List.length_cons] at h
    rw [Memory.load, ih (by omega), Memory.get_put_other _ _ (by omega)]

/-- Bytes loaded into a canonical store read back, each at its own address: the first is left alone by those after it. -/
theorem Memory.get_load {image : List Byte} {m : Memory} {start k : Nat} {v : Byte} (hwf : Memory.wf m = true)
    (hk : image[k]? = some v) : Memory.get (Memory.load m start image) (start + k) = v := by
  induction image generalizing m start k with
  | nil => cases hk
  | cons b rest ih =>
    rw [Memory.load]
    cases k with
    | zero =>
      cases hk
      exact (Memory.get_load_other rest (.inl (Nat.lt_add_one start))).trans (Memory.get_put_same start v hwf)
    | succ k =>
      rw [Nat.add_comm k 1, ← Nat.add_assoc]
      exact ih (Memory.put_wf _ _ hwf) hk

/-- The image load answers exactly when the content fits, and then the store with the content loaded. -/
theorem loadImage_eq_some_iff {start : Nat} {image : List Byte} : s.loadImage start image = some t ↔
    start + image.length ≤ s.cfg.memSize ∧ t = { s with mem := Memory.load s.mem start image } := by
  rw [State.loadImage, Option.ite_none_right_eq_some, Option.some_inj, eq_comm (a := t)]

theorem loadImage_eq_none_iff {start : Nat} {image : List Byte} :
    s.loadImage start image = none ↔ s.cfg.memSize < start + image.length := by
  rw [State.loadImage, ite_eq_right_iff, ← Nat.not_le]
  exact forall_congr' fun _ => by simp

/-- Settles O9, by what the loaded store reads as at the addresses of the content and away from them. -/
theorem imageLoadCopiesByteForByte : Obligations.ImageLoadCopiesByteForByte := by
  intro s start image hwf
  refine ⟨loadImage_eq_none_iff, fun t h => ?_⟩
  obtain ⟨-, rfl⟩ := loadImage_eq_some_iff.mp h
  exact ⟨fun k v => Memory.get_load hwf, fun n => Memory.get_load_other image, rfl⟩

/-! ## Totality -/

/-- Every step answers a next state, by the four things a step can do. -/
theorem step_next (s : State) : ∃ t, step s = .next t := by
  rcases step_cases s with ⟨_, -, h⟩ | ⟨-, -, h⟩ | ⟨-, _, _, -, -, h⟩ | ⟨-, _, -, h⟩ <;> exact ⟨_, h⟩

/-- Settles O17, by `exec_next` and `step_next`. -/
theorem everyStepAnswersANextState : Obligations.EveryStepAnswersANextState :=
  ⟨exec_next, step_next⟩

end Sys2Proof.Machine
end
